-- ==== Sys2Proof/Word.lean ====
section
/-! DEFINITION. The unit the block moves: one byte of the ingestion stream and of the frame buffer. -/

namespace Sys2Proof

/-- R9: a byte is 8 bits, bit 7 the most significant. -/
abbrev Byte := BitVec 8

end Sys2Proof
end

