-- ==== Sys2Proof/Syntax.lean ====
section
/-! DEFINITION. The operations of the block: one constructor for each mnemonic of spec/opcode_table.json (the twelve
`DATA` rows are one mnemonic whose operand is the byte). -/

namespace Sys2Proof

/-- R66: the formats of the opcode map. A format is the place at which the block decodes a value, and the same bits mean
different things at different places. -/
inductive Format where
  /-- The two step-kind inputs, 1 bit. -/
  | ctrl
  /-- A byte of the ingestion port, classified by the framer (R60, R61). -/
  | byte
  /-- A marker position of a frame (R152 to R154). -/
  | mark
  /-- A checksum-digit position of a frame (R63). -/
  | hexch
  /-- The hemisphere byte `ang_hemi` (R190). -/
  | hemi
  /-- The operation code `ang_op`, 3 bits (R66, R72). -/
  | aop
  deriving DecidableEq, Repr

/-- R61: the framer's three classes of an input byte. -/
inductive ByteClass where
  | sof
  | eof
  | data
  deriving DecidableEq, Repr

/-- R66: the operations of the block. The operands of the angle operations are U4's input ports (R31), not part of
their 3-bit encoding. -/
inductive Instr where
  /-- `RESET`. R280: `rst = 1`. -/
  | reset
  /-- `IDLE_STEP`. R101: `rst = 0`, `in_valid = 0`. -/
  | idleStep
  /-- `SOF`. R103, R105: the byte `$`. -/
  | sof
  /-- `EOF`. R104, R106: the byte `<LF>`. -/
  | eof
  /-- `DATA`. R104, R107: any other byte, the twelve blocks of R61. -/
  | data (b : Byte)
  /-- `M_DOLLAR`. R152: `$` as the start marker, index 0 of a frame. -/
  | mDollar
  /-- `M_CR`. R153: `<CR>` as the terminator at index `n-2`. -/
  | mCr
  /-- `M_LF`. R153: `<LF>` as the terminator at index `n-1`. -/
  | mLf
  /-- `M_STAR`. R154: `*` as the checksum marker at index `n-5`. -/
  | mStar
  /-- `HEX_0`. R63: hex character of value 0. -/
  | hex0
  /-- `HEX_1`. R63: hex character of value 1. -/
  | hex1
  /-- `HEX_2`. R63: hex character of value 2. -/
  | hex2
  /-- `HEX_3`. R63: hex character of value 3. -/
  | hex3
  /-- `HEX_4`. R63: hex character of value 4. -/
  | hex4
  /-- `HEX_5`. R63: hex character of value 5. -/
  | hex5
  /-- `HEX_6`. R63: hex character of value 6. -/
  | hex6
  /-- `HEX_7`. R63: hex character of value 7. -/
  | hex7
  /-- `HEX_8`. R63: hex character of value 8. -/
  | hex8
  /-- `HEX_9`. R63: hex character of value 9. -/
  | hex9
  /-- `HEX_A`. R63: upper-case hex character of value 10. -/
  | hexUpperA
  /-- `HEX_B`. R63: upper-case hex character of value 11. -/
  | hexUpperB
  /-- `HEX_C`. R63: upper-case hex character of value 12. -/
  | hexUpperC
  /-- `HEX_D`. R63: upper-case hex character of value 13. -/
  | hexUpperD
  /-- `HEX_E`. R63: upper-case hex character of value 14. -/
  | hexUpperE
  /-- `HEX_F`. R63: upper-case hex character of value 15. -/
  | hexUpperF
  /-- `HEX_a`. R63: lower-case hex character of value 10. -/
  | hexLowerA
  /-- `HEX_b`. R63: lower-case hex character of value 11. -/
  | hexLowerB
  /-- `HEX_c`. R63: lower-case hex character of value 12. -/
  | hexLowerC
  /-- `HEX_d`. R63: lower-case hex character of value 13. -/
  | hexLowerD
  /-- `HEX_e`. R63: lower-case hex character of value 14. -/
  | hexLowerE
  /-- `HEX_f`. R63: lower-case hex character of value 15. -/
  | hexLowerF
  /-- `HEMI_N`. R190: `N`, positive sign. -/
  | hemiUpperN
  /-- `HEMI_n`. R190: `n`, positive sign. -/
  | hemiLowerN
  /-- `HEMI_E`. R190: `E`, positive sign. -/
  | hemiUpperE
  /-- `HEMI_e`. R190: `e`, positive sign. -/
  | hemiLowerE
  /-- `HEMI_S`. R190: `S`, negative sign. -/
  | hemiUpperS
  /-- `HEMI_s`. R190: `s`, negative sign. -/
  | hemiLowerS
  /-- `HEMI_W`. R190: `W`, negative sign. -/
  | hemiUpperW
  /-- `HEMI_w`. R190: `w`, negative sign. -/
  | hemiLowerW
  /-- `DEG2DMM`. R184: `ang_op` code 0. -/
  | deg2dmm
  /-- `DMM2DMS`. R185: `ang_op` code 1. -/
  | dmm2dms
  /-- `DEG2DMS`. R186: `ang_op` code 2. -/
  | deg2dms
  /-- `DMM2DEG`. R187: `ang_op` code 3. -/
  | dmm2deg
  /-- `DMS2DEG`. R188: `ang_op` code 4. -/
  | dms2deg
  /-- `HEMI2SIGN`. R190: `ang_op` code 5. -/
  | hemi2sign
  /-- `RANGECHK`. R191: `ang_op` code 6. -/
  | rangechk
  /-- `AOP_RSVD`. R69: `ang_op` code 7. -/
  | aopRsvd
  deriving DecidableEq, Repr

end Sys2Proof
end

