-- ==== Sys2Proof/WellFormed.lean ====
section
/-! DEFINITION. Which terms of `Instr` stand for an encoding of the opcode table. -/

namespace Sys2Proof

/-- R61: a `DATA` byte is any value but `$` (0x24) and `<LF>` (0x0A), which are `SOF` and `EOF`. No other constructor
has an operand, so every other term is well-formed. -/
def Instr.wellFormed (i : Instr) : Bool :=
  match i with
  | .data b => decide (b ≠ 0x24#8) && decide (b ≠ 0x0A#8)
  | .reset | .idleStep | .sof | .eof | .mDollar | .mCr | .mLf | .mStar | .hex0 | .hex1 | .hex2 | .hex3
  | .hex4 | .hex5 | .hex6 | .hex7 | .hex8 | .hex9 | .hexUpperA | .hexUpperB | .hexUpperC | .hexUpperD
  | .hexUpperE | .hexUpperF | .hexLowerA | .hexLowerB | .hexLowerC | .hexLowerD | .hexLowerE | .hexLowerF
  | .hemiUpperN | .hemiLowerN | .hemiUpperE | .hemiLowerE | .hemiUpperS | .hemiLowerS | .hemiUpperW
  | .hemiLowerW | .deg2dmm | .dmm2dms | .deg2dms | .dmm2deg | .dms2deg | .hemi2sign | .rangechk | .aopRsvd => true

end Sys2Proof
end

