-- ==== Sys2Proof/Decode.lean ====
section
/-! DEFINITION. Decoding, total and per format, from the opcode table's rows; the encoder; the host's view of a table
word. The character codes are those of 00_scope.md R11. -/

namespace Sys2Proof

/-- R11: `$`. -/
abbrev asciiDollar : Byte := 0x24#8
/-- R11: `*`. -/
abbrev asciiStar : Byte := 0x2A#8
/-- R11: `<CR>`. -/
abbrev asciiCr : Byte := 0x0D#8
/-- R11: `<LF>`. -/
abbrev asciiLf : Byte := 0x0A#8

/-- A value and the place it is decoded at: the model's word. A value of a format narrower than a byte stands in the
low bits (R60, R66). -/
structure TableWord where
  format : Format
  bits : Byte
  deriving DecidableEq, Repr

/-- R66: how many bits a value of the format has. -/
def Format.width (f : Format) : Nat :=
  match f with
  | .ctrl => 1
  | .aop => 3
  | .byte | .mark | .hexch | .hemi => 8

/-- A row of the opcode table: a value `v` is in the row when `v &&& mask = pattern`. -/
structure Row where
  format : Format
  mask : Byte
  pattern : Byte
  instr : Byte → Instr

/-- R61: the row test. -/
def rowMatches (r : Row) (b : Byte) : Bool := decide (b &&& r.mask = r.pattern)

/-- R66: the two step kinds, selected by the inputs `rst` and `in_valid`. -/
def ctrlRows : List Row :=
  [ ⟨.ctrl, 0x01, 0x01, fun _ => .reset⟩,
    ⟨.ctrl, 0x01, 0x00, fun _ => .idleStep⟩ ]

/-- R61: the two framing bytes. -/
def frameByteRows : List Row :=
  [ ⟨.byte, 0xFF, 0x24, fun _ => .sof⟩,
    ⟨.byte, 0xFF, 0x0A, fun _ => .eof⟩ ]

/-- R61: `DATA`, the other 254 byte values, as the twelve match and mask blocks of the rule. -/
def dataRows : List Row :=
  [ ⟨.byte, 0xF8, 0x00, fun b => .data b⟩,
    ⟨.byte, 0xFE, 0x08, fun b => .data b⟩,
    ⟨.byte, 0xFF, 0x0B, fun b => .data b⟩,
    ⟨.byte, 0xFC, 0x0C, fun b => .data b⟩,
    ⟨.byte, 0xF0, 0x10, fun b => .data b⟩,
    ⟨.byte, 0xFC, 0x20, fun b => .data b⟩,
    ⟨.byte, 0xFF, 0x25, fun b => .data b⟩,
    ⟨.byte, 0xFE, 0x26, fun b => .data b⟩,
    ⟨.byte, 0xF8, 0x28, fun b => .data b⟩,
    ⟨.byte, 0xF0, 0x30, fun b => .data b⟩,
    ⟨.byte, 0xC0, 0x40, fun b => .data b⟩,
    ⟨.byte, 0x80, 0x80, fun b => .data b⟩ ]

/-- R152 to R154: the four markers. -/
def markRows : List Row :=
  [ ⟨.mark, 0xFF, 0x24, fun _ => .mDollar⟩,
    ⟨.mark, 0xFF, 0x0D, fun _ => .mCr⟩,
    ⟨.mark, 0xFF, 0x0A, fun _ => .mLf⟩,
    ⟨.mark, 0xFF, 0x2A, fun _ => .mStar⟩ ]

/-- R63: the ten decimal digits. -/
def hexDigitRows : List Row :=
  [ ⟨.hexch, 0xFF, 0x30, fun _ => .hex0⟩,
    ⟨.hexch, 0xFF, 0x31, fun _ => .hex1⟩,
    ⟨.hexch, 0xFF, 0x32, fun _ => .hex2⟩,
    ⟨.hexch, 0xFF, 0x33, fun _ => .hex3⟩,
    ⟨.hexch, 0xFF, 0x34, fun _ => .hex4⟩,
    ⟨.hexch, 0xFF, 0x35, fun _ => .hex5⟩,
    ⟨.hexch, 0xFF, 0x36, fun _ => .hex6⟩,
    ⟨.hexch, 0xFF, 0x37, fun _ => .hex7⟩,
    ⟨.hexch, 0xFF, 0x38, fun _ => .hex8⟩,
    ⟨.hexch, 0xFF, 0x39, fun _ => .hex9⟩ ]

/-- R63: the upper-case hex letters. -/
def hexUpperRows : List Row :=
  [ ⟨.hexch, 0xFF, 0x41, fun _ => .hexUpperA⟩,
    ⟨.hexch, 0xFF, 0x42, fun _ => .hexUpperB⟩,
    ⟨.hexch, 0xFF, 0x43, fun _ => .hexUpperC⟩,
    ⟨.hexch, 0xFF, 0x44, fun _ => .hexUpperD⟩,
    ⟨.hexch, 0xFF, 0x45, fun _ => .hexUpperE⟩,
    ⟨.hexch, 0xFF, 0x46, fun _ => .hexUpperF⟩ ]

/-- R63: the lower-case hex letters. -/
def hexLowerRows : List Row :=
  [ ⟨.hexch, 0xFF, 0x61, fun _ => .hexLowerA⟩,
    ⟨.hexch, 0xFF, 0x62, fun _ => .hexLowerB⟩,
    ⟨.hexch, 0xFF, 0x63, fun _ => .hexLowerC⟩,
    ⟨.hexch, 0xFF, 0x64, fun _ => .hexLowerD⟩,
    ⟨.hexch, 0xFF, 0x65, fun _ => .hexLowerE⟩,
    ⟨.hexch, 0xFF, 0x66, fun _ => .hexLowerF⟩ ]

/-- R190: the eight hemisphere letters. -/
def hemiRows : List Row :=
  [ ⟨.hemi, 0xFF, 0x4E, fun _ => .hemiUpperN⟩,
    ⟨.hemi, 0xFF, 0x6E, fun _ => .hemiLowerN⟩,
    ⟨.hemi, 0xFF, 0x45, fun _ => .hemiUpperE⟩,
    ⟨.hemi, 0xFF, 0x65, fun _ => .hemiLowerE⟩,
    ⟨.hemi, 0xFF, 0x53, fun _ => .hemiUpperS⟩,
    ⟨.hemi, 0xFF, 0x73, fun _ => .hemiLowerS⟩,
    ⟨.hemi, 0xFF, 0x57, fun _ => .hemiUpperW⟩,
    ⟨.hemi, 0xFF, 0x77, fun _ => .hemiLowerW⟩ ]

/-- R66, R69: the eight codes of `ang_op`, the reserved one among them. -/
def aopRows : List Row :=
  [ ⟨.aop, 0x07, 0x00, fun _ => .deg2dmm⟩,
    ⟨.aop, 0x07, 0x01, fun _ => .dmm2dms⟩,
    ⟨.aop, 0x07, 0x02, fun _ => .deg2dms⟩,
    ⟨.aop, 0x07, 0x03, fun _ => .dmm2deg⟩,
    ⟨.aop, 0x07, 0x04, fun _ => .dms2deg⟩,
    ⟨.aop, 0x07, 0x05, fun _ => .hemi2sign⟩,
    ⟨.aop, 0x07, 0x06, fun _ => .rangechk⟩,
    ⟨.aop, 0x07, 0x07, fun _ => .aopRsvd⟩ ]

/-- R66: the rows that fix every bit of their format, in the table's order. -/
def exactRows : List Row :=
  ctrlRows ++ frameByteRows ++ markRows ++ hexDigitRows ++ hexUpperRows ++ hexLowerRows ++ hemiRows ++ aopRows

/-- R66: the whole opcode map, 58 rows. -/
def opcodeRows : List Row := exactRows ++ dataRows

/-- Why a value has no meaning at a place. -/
inductive DecodeReject where
  /-- More bits than the format has. -/
  | widerThanFormat (f : Format)
  /-- R68: not one of the four markers. The validator gives the frame the matching reason bit. -/
  | notAMarker
  /-- R68: not a hex character. The checksum compare fails. -/
  | notAHexCharacter
  /-- R69: not a hemisphere letter. `HEMI2SIGN` raises `FormatError`. -/
  | notAHemisphereLetter
  /-- No row of a format all of whose values have a row (R67: it never happens). -/
  | noRow (f : Format)
  deriving DecidableEq, Repr

/-- The rejection of a value that no row of its format matches. -/
def rejectName (f : Format) : DecodeReject :=
  match f with
  | .mark => .notAMarker
  | .hexch => .notAHexCharacter
  | .hemi => .notAHemisphereLetter
  | .ctrl | .byte | .aop => .noRow f

/-- R66: decoding of a value at the place its format names. -/
def decode (w : TableWord) : Except DecodeReject Instr :=
  if 2 ^ w.format.width ≤ w.bits.toNat then .error (.widerThanFormat w.format)
  else
    match opcodeRows.find? (fun r => decide (r.format = w.format) && rowMatches r w.bits) with
    | some r => .ok (r.instr w.bits)
    | none => .error (rejectName w.format)

/-- R61: the framer's class of a byte, a total classification (R67). -/
def classOf (b : Byte) : ByteClass :=
  if b = asciiDollar then .sof else if b = asciiLf then .eof else .data

/-- R61, R66: the operation of a byte offered on the ingestion port. -/
def decodeByte (b : Byte) : Instr :=
  match classOf b with
  | .sof => .sof
  | .eof => .eof
  | .data => .data b

/-- R60, R73: a program is a byte string consumed from the left, one byte an instruction. -/
def decodeStream (bs : List Byte) : Option (Instr × List Byte) :=
  match bs with
  | [] => none
  | b :: rest => some (decodeByte b, rest)

/-- R66: the encoding of an operation, at the place it is decoded. -/
def encode (i : Instr) : TableWord :=
  match i with
  | .reset => ⟨.ctrl, 0x01⟩
  | .idleStep => ⟨.ctrl, 0x00⟩
  | .sof => ⟨.byte, 0x24⟩
  | .eof => ⟨.byte, 0x0A⟩
  | .data b => ⟨.byte, b⟩
  | .mDollar => ⟨.mark, 0x24⟩
  | .mCr => ⟨.mark, 0x0D⟩
  | .mLf => ⟨.mark, 0x0A⟩
  | .mStar => ⟨.mark, 0x2A⟩
  | .hex0 => ⟨.hexch, 0x30⟩
  | .hex1 => ⟨.hexch, 0x31⟩
  | .hex2 => ⟨.hexch, 0x32⟩
  | .hex3 => ⟨.hexch, 0x33⟩
  | .hex4 => ⟨.hexch, 0x34⟩
  | .hex5 => ⟨.hexch, 0x35⟩
  | .hex6 => ⟨.hexch, 0x36⟩
  | .hex7 => ⟨.hexch, 0x37⟩
  | .hex8 => ⟨.hexch, 0x38⟩
  | .hex9 => ⟨.hexch, 0x39⟩
  | .hexUpperA => ⟨.hexch, 0x41⟩
  | .hexUpperB => ⟨.hexch, 0x42⟩
  | .hexUpperC => ⟨.hexch, 0x43⟩
  | .hexUpperD => ⟨.hexch, 0x44⟩
  | .hexUpperE => ⟨.hexch, 0x45⟩
  | .hexUpperF => ⟨.hexch, 0x46⟩
  | .hexLowerA => ⟨.hexch, 0x61⟩
  | .hexLowerB => ⟨.hexch, 0x62⟩
  | .hexLowerC => ⟨.hexch, 0x63⟩
  | .hexLowerD => ⟨.hexch, 0x64⟩
  | .hexLowerE => ⟨.hexch, 0x65⟩
  | .hexLowerF => ⟨.hexch, 0x66⟩
  | .hemiUpperN => ⟨.hemi, 0x4E⟩
  | .hemiLowerN => ⟨.hemi, 0x6E⟩
  | .hemiUpperE => ⟨.hemi, 0x45⟩
  | .hemiLowerE => ⟨.hemi, 0x65⟩
  | .hemiUpperS => ⟨.hemi, 0x53⟩
  | .hemiLowerS => ⟨.hemi, 0x73⟩
  | .hemiUpperW => ⟨.hemi, 0x57⟩
  | .hemiLowerW => ⟨.hemi, 0x77⟩
  | .deg2dmm => ⟨.aop, 0x00⟩
  | .dmm2dms => ⟨.aop, 0x01⟩
  | .deg2dms => ⟨.aop, 0x02⟩
  | .dmm2deg => ⟨.aop, 0x03⟩
  | .dms2deg => ⟨.aop, 0x04⟩
  | .hemi2sign => ⟨.aop, 0x05⟩
  | .rangechk => ⟨.aop, 0x06⟩
  | .aopRsvd => ⟨.aop, 0x07⟩

/-- The format a table word is read in when only its bits are known (log entry 2). A row narrower than a byte is known
by `nbits`. Else the word is read by the first row, in the table's order, that fixes every bit of its format and equals
the word, and by the `DATA` blocks where there is none. -/
def tableFormat (nbits : Nat) (b : Byte) : Format :=
  if nbits < 3 then .ctrl
  else if nbits < 8 then .aop
  else
    match exactRows.find? (fun r => decide (b = r.pattern)) with
    | some r => r.format
    | none => .byte

/-- The table word the host's number stands for: its first byte, with the format of `tableFormat`. No instruction is
longer than one byte (R60). -/
def tableWord (nbits w : Nat) : TableWord :=
  ⟨tableFormat nbits (BitVec.ofNat 8 w), BitVec.ofNat 8 w⟩

/-- The operation the decoder reads from the host's number for a row of the opcode table. -/
def decodeTableWord (nbits w : Nat) : Option Instr :=
  match decode (tableWord nbits w) with
  | .ok i => some i
  | .error _ => none

end Sys2Proof
end

