-- ==== Sys2Proof/Config.lean ====
section
/-! DEFINITION. The build parameters of the block (00_scope.md R8) and the one value the spec leaves free. -/

namespace Sys2Proof

/-- R8: the parameters fixed when the block is built. `MIN_LEN` is fixed at 5 and `LEN_W`, `ADDR_W`, `AW` are
computed from these three (Machine/Operands.lean). -/
structure Config where
  /-- `CAP`: the capacity of the frame buffer in bytes. -/
  cap : Nat
  /-- `HAS_ANGLE`: whether U4 is present. -/
  hasAngle : Bool
  /-- `F`: the fraction bits of the fixed-point angle formats. -/
  fracBits : Nat
  deriving DecidableEq, Repr

/-- R8: the default build, `CAP` = 1024, `HAS_ANGLE` = true, `F` = 32. -/
def Config.default : Config := { cap := 1024, hasAngle := true, fracBits := 32 }

/-- R8: `CAP` and `F` are integers of at least 1. `CAP = 0` and `F = 0` are illegal (93_implementation_defined.md U12). -/
def Config.legal (c : Config) : Bool := decide (1 ≤ c.cap) && decide (1 ≤ c.fracBits)

/-- R43: a byte of `buf` never written since power-up, or at an index of `CAP` or more, reads as ANY value, and two
reads need not agree. The `k`-th such draw is `Config.freeByte k`: a constant with no body, so that nothing can be
proved of its value (log entry 7). -/
opaque Config.freeByte : Nat → Byte

end Sys2Proof
end

