-- ==== Sys2Proof/Machine/State.lean ====
section
/-! DEFINITION. The state of the block as plain data: the triple `(st, len, buf)` of 10_state.md R20, and, because the
host's step takes a state and returns a state, the inputs of the steps to come and the outputs of the last step
(10_state.md R28, R31; log entries 3 and 5). -/

namespace Sys2Proof.Machine

/-- R21: the framer state `st`, 1 bit. -/
inductive FramerState where
  /-- No frame in progress. -/
  | idle
  /-- Accumulating a frame. -/
  | payload
  deriving DecidableEq, Repr

/-- R70: the verdict's status. Code 3 is never produced. -/
inductive Status where
  | ok
  | dropped
  | csumFail
  deriving DecidableEq, Repr

/-- R30: the range limit that applies to an angle. -/
inductive Kind where
  | lat
  | lon
  deriving DecidableEq, Repr

/-- R28, R150: the verdict outputs `v_status`, `v_reason`, `v_calc`, `v_rx_hi`, `v_rx_lo`, `pay_len`. -/
structure Verdict where
  status : Status
  reason : BitVec 4
  vCalc : Byte
  rxHi : Byte
  rxLo : Byte
  payLen : Nat
  deriving DecidableEq, Repr

/-- R108: the emission event of a step: `frm_len`, the frame's bytes (decision D4 lets a model carry them) and the
verdict. -/
structure Emission where
  frmLen : Nat
  frame : List Byte
  verdict : Verdict
  deriving DecidableEq, Repr

/-- R31: U4's operand ports. A port whose width depends on `F` holds its bit pattern as a number, and every read of it
takes the width's low bits (Machine/Operands.lean). -/
structure AngleIn where
  kind : Kind
  deg : Nat
  neg : Bool
  wd : BitVec 8
  dm : Nat
  wm : BitVec 7
  ds : Nat
  hemi : Byte
  deriving DecidableEq, Repr

/-- R31: U4's output ports. -/
structure AngleOut where
  deg : Nat
  neg : Bool
  wd : BitVec 8
  dm : Nat
  wm : BitVec 7
  ds : Nat
  errRange : Bool
  errFormat : Bool
  deriving DecidableEq, Repr

/-- The format by which the environment names the byte it offers (log entry 4). It is no signal of the block and no
effect depends on it. -/
inductive ByteName where
  | byClass
  | byMark
  | byHex
  deriving DecidableEq, Repr

/-- A request's operation: the code on `ang_op`, or `HEMI2SIGN` named by the letter on `ang_hemi` (log entry 4). -/
inductive AngleCode where
  | op (code : BitVec 3)
  | letter
  deriving DecidableEq, Repr

/-- A request to U4: the operation and the operand ports. -/
structure AngleReq where
  code : AngleCode
  ports : AngleIn
  deriving DecidableEq, Repr

/-- R28, R31: what the environment drives in one step. -/
structure ClockCycle where
  /-- `rst`. -/
  rst : Bool
  /-- `in_valid`. -/
  inValid : Bool
  /-- `in_data`, ignored when `in_valid = 0`. -/
  inData : Byte
  /-- How the offered byte is named. -/
  inName : ByteName
  /-- `rd_addr`, `none` in a step whose `rd_data` nobody reads (log entry 17). -/
  rdAddr : Option Nat
  /-- The request presented to U4, `none` in a step without one. -/
  angle : Option AngleReq
  deriving DecidableEq, Repr

/-- R101: a step in which nothing is offered, read or requested. -/
def ClockCycle.idle : ClockCycle :=
  { rst := false, inValid := false, inData := 0, inName := .byClass, rdAddr := none, angle := none }

/-- The reasons the model refuses an operation. -/
inductive Refusal where
  /-- Raised by `exec` for an operation that has no meaning yet. Safe. -/
  | notModelled (mnemonic : String)
  /-- Raised by every angle operation of a build without U4, whose ports do not exist (R8, decision D17). A step keeps it
  in `angRefusal` and goes on (log entry 10). Safe. -/
  | noAngleUnit
  /-- Raised by `AOP_RSVD`: R69 gives `ang_op` 7 no meaning and says that a model refuses it. A step keeps it in
  `angRefusal` and goes on (log entry 10). Safe. -/
  | reservedAngleOp
  /-- Raised by a step of a build whose parameters are illegal (R8, 93_implementation_defined.md U12). Safe. -/
  | illegalParameters
  deriving DecidableEq, Repr

/-- The state. -/
structure State where
  /-- R8: the build parameters. No step changes them (log entry 6). -/
  config : Config
  /-- R21: the framer state. -/
  st : FramerState
  /-- R22: the number of bytes of the frame in progress, the index of the next write. -/
  len : Nat
  /-- R32: the frame buffer, as its written bytes, indices strictly rising. -/
  buf : List Host.Cell
  /-- R28: the inputs of the steps to come, the next first. When it is empty the steps are idle. -/
  pending : List ClockCycle
  /-- R31: U4's operand ports as the last request drove them. -/
  angIn : AngleIn
  /-- R28, R108: the emission outputs of the last step, `none` when `frm_valid = 0`. -/
  emission : Option Emission
  /-- R28, R43: `rd_data` of the last step, `none` when nobody read it. -/
  rdData : Option Byte
  /-- R31: U4's outputs in the last step, `none` when no operation was requested. -/
  angOut : Option AngleOut
  /-- R69: why the request of the last step was refused, `none` when it was served or there was none (log entry 10). -/
  angRefusal : Option Refusal
  /-- The number of free values drawn so far (log entry 7). -/
  draws : Nat
  deriving DecidableEq, Repr

/-- R31: operand ports at 0 (log entry 9). -/
def AngleIn.zero : AngleIn :=
  { kind := .lat, deg := 0, neg := false, wd := 0, dm := 0, wm := 0, ds := 0, hemi := 0 }

/-- R180: all of U4's outputs at 0, from which an operation drives those its rule names. -/
def AngleOut.zero : AngleOut :=
  { deg := 0, neg := false, wd := 0, dm := 0, wm := 0, ds := 0, errRange := false, errFormat := false }

/-- R34, R280: the state right after the first reset of a build: `(IDLE, 0)`, no byte of `buf` written, `frm_valid` 0. -/
def State.resetOf (c : Config) : State :=
  { config := c, st := .idle, len := 0, buf := [], pending := [], angIn := AngleIn.zero, emission := none,
    rdData := none, angOut := none, angRefusal := none, draws := 0 }

/-- R8, R34: the default build right after reset. -/
def State.reset : State := State.resetOf Config.default

/-- The reasons the model stops with a fault. -/
inductive Fault where
  /-- Raised by a write to an index of `CAP` or more, which does not exist (R40). Only a state that breaks R23 reaches
  it. Safe: no rule promises anything of such a state (93_implementation_defined.md U10). -/
  | noSuchIndex (index : Nat)
  deriving DecidableEq, Repr

/-- What one operation or one step answers. -/
abbrev Result := Host.Outcome State Fault Refusal

end Sys2Proof.Machine
end

