-- ==== Sys2Proof/Machine/Operands.lean ====
section
/-! DEFINITION. Port widths, hex characters, port codes, U4's operands and the number formats of angles. -/

namespace Sys2Proof.Machine

/-- `ceil(log2 n)`, 0 for `n <= 1`. -/
def ceilLog2 (n : Nat) : Nat := if n ≤ 1 then 0 else Nat.log2 (n - 1) + 1

/-- R8: `LEN_W = ceil(log2(CAP+1))`, the width of `len` and `frm_len`. -/
def lenWidth (c : Config) : Nat := ceilLog2 (c.cap + 1)

/-- R8: `ADDR_W = max(1, ceil(log2(CAP)))`, the width of `rd_addr`. -/
def addrWidth (c : Config) : Nat := max 1 (ceilLog2 c.cap)

/-- R21: the code of `st`. -/
def framerCode (s : FramerState) : BitVec 1 :=
  match s with
  | .idle => 0
  | .payload => 1

/-- R70: the code of `v_status`. -/
def statusCode (s : Status) : BitVec 2 :=
  match s with
  | .ok => 0
  | .dropped => 1
  | .csumFail => 2

/-- R72: the code of `ang_kind`. -/
def kindCode (k : Kind) : BitVec 1 :=
  match k with
  | .lat => 0
  | .lon => 1

/-- R63: the value of a hex character of either case. -/
def hexval (c : Byte) : Option Nat :=
  let n := c.toNat
  if 0x30 ≤ n ∧ n ≤ 0x39 then some (n - 0x30)
  else if 0x41 ≤ n ∧ n ≤ 0x46 then some (n - 0x41 + 10)
  else if 0x61 ≤ n ∧ n ≤ 0x66 then some (n - 0x61 + 10)
  else none

/-- R64: the received checksum value, defined only when both characters are hex. -/
def receivedChecksum (hi lo : Byte) : Option Nat :=
  match hexval hi, hexval lo with
  | some h, some l => some (16 * h + l)
  | _, _ => none

/-- R65: the upper-case character of a digit below 16. -/
def hexchar (d : Nat) : Byte := if d ≤ 9 then BitVec.ofNat 8 (0x30 + d) else BitVec.ofNat 8 (0x41 + d - 10)

/-- R65: the two characters that spell a value, the high digit first. -/
def hex2 (v : Byte) : Byte × Byte := (hexchar (v.toNat / 16), hexchar (v.toNat % 16))

/-- R134: upper case. `a` to `z` (0x61 to 0x7A) go to `A` to `Z`, every other byte stays. -/
def upperByte (c : Byte) : Byte := if 0x61 ≤ c.toNat ∧ c.toNat ≤ 0x7A then c - 0x20#8 else c

/-- R190: the sign of a hemisphere letter, `none` for any other byte. -/
def hemiSign (c : Byte) : Option Bool :=
  if c = 0x4E#8 ∨ c = 0x6E#8 ∨ c = 0x45#8 ∨ c = 0x65#8 then some false
  else if c = 0x53#8 ∨ c = 0x73#8 ∨ c = 0x57#8 ∨ c = 0x77#8 then some true
  else none

/-- R8: `AW`, the width of an angle in degrees. -/
def degWidth (frac : Nat) : Nat := 9 + frac

/-- R30: the width of decimal minutes and of decimal seconds. -/
def minWidth (frac : Nat) : Nat := 7 + frac

/-- 43_angle.md: `ONE = 2^F`. -/
def one (frac : Nat) : Nat := 2 ^ frac

/-- R30: `sint(ang_deg)`, the signed value of the port's `AW` bits. -/
def degOperand (frac : Nat) (p : AngleIn) : Int := (BitVec.ofNat (degWidth frac) p.deg).toInt

/-- R30: `uint(ang_dm)`. -/
def dmOperand (frac : Nat) (p : AngleIn) : Nat := (BitVec.ofNat (minWidth frac) p.dm).toNat

/-- R30: `uint(ang_ds)`. -/
def dsOperand (frac : Nat) (p : AngleIn) : Nat := (BitVec.ofNat (minWidth frac) p.ds).toNat

/-- R9, R187: `trunc_AW(x)`, the two's-complement bit pattern of a degree value. -/
def truncDeg (frac : Nat) (x : Int) : Nat := (BitVec.ofInt (degWidth frac) x).toNat

/-- R181: the limit of a kind, `90 * ONE` or `180 * ONE`. -/
def limit (frac : Nat) (k : Kind) : Nat :=
  match k with
  | .lat => 90 * one frac
  | .lon => 180 * one frac

/-- R181: the closed range check, on an integer of any size. -/
def inRange (frac : Nat) (k : Kind) (x : Int) : Bool :=
  decide (-(limit frac k : Int) ≤ x) && decide (x ≤ (limit frac k : Int))

/-- R187: the sign bit applied to a magnitude. -/
def signed (neg : Bool) (mag : Nat) : Int := if neg then -(mag : Int) else (mag : Int)

end Sys2Proof.Machine
end

