-- ==== Sys2Proof/Machine/Checksum.lean ====
section
/-! DEFINITION. U2, the Sentence Checksum (41_checksum.md). -/

namespace Sys2Proof.Machine

/-- R130: the XOR fold of a byte sequence from 0. -/
def xorFold (bs : List Byte) : Byte := bs.foldl (fun acc b => acc ^^^ b) 0#8

/-- R130: `checksum(bytes, start, length)`. The range is clamped to the end, and a `start` at or past the end gives the
empty range (decision D14). -/
def checksum (bs : List Byte) (start length : Nat) : Byte :=
  xorFold ((bs.drop start).take (min length (bs.length - start)))

/-- R134: the compare of the computed checksum with the two received characters. -/
def csumMatch (computed hi lo : Byte) : Bool := decide (receivedChecksum hi lo = some computed.toNat)

/-- R135: a whole sentence from its payload. The block has no port for it (decision D16). -/
def wrap (p : List Byte) : List Byte :=
  let digits := hex2 (checksum p 0 p.length)
  [asciiDollar] ++ p ++ [asciiStar] ++ [digits.1, digits.2] ++ [asciiCr, asciiLf]

end Sys2Proof.Machine
end

