-- ==== Sys2Proof/Machine/Flags.lean ====
section
/-! DEFINITION. The four reason bits of the validator (42_validator.md R151 to R155). The block keeps no flag in state
(R26): these are outputs of the emission step. -/

namespace Sys2Proof.Machine

/-- R8: `MIN_LEN`. -/
def minLen : Nat := 5

/-- R150: `at(n-k)`, `none` when the frame has fewer than `k` bytes, or `k = 0`. -/
def fromEnd (f : List Byte) (k : Nat) : Option Byte := if k ≤ f.length then f[f.length - k]? else none

/-- R151: check 1. -/
def tooShort (f : List Byte) : Bool := decide (f.length < minLen)

/-- R152: check 2. -/
def noStart (f : List Byte) : Bool := decide (f[0]? ≠ some asciiDollar)

/-- R153: check 3, one bit for both terminators. -/
def noTerm (f : List Byte) : Bool := decide (fromEnd f 2 ≠ some asciiCr) || decide (fromEnd f 1 ≠ some asciiLf)

/-- R154: check 4, at the one position `n-5`. -/
def noStar (f : List Byte) : Bool := decide (fromEnd f 5 ≠ some asciiStar)

/-- A condition as one bit. -/
def bit (b : Bool) : BitVec 1 := if b then 1#1 else 0#1

/-- R71, R155: `v_reason`, all four checks evaluated, bit 0 `too_short`, bit 1 `no_start`, bit 2 `no_term`, bit 3
`no_star`. -/
def reasonMask (f : List Byte) : BitVec 4 := bit (noStar f) ++ bit (noTerm f) ++ bit (noStart f) ++ bit (tooShort f)

end Sys2Proof.Machine
end

