-- ==== Sys2Proof/Machine/Validator.lean ====
section
/-! DEFINITION. U3, the Frame Validator (42_validator.md), on any byte sequence. -/

namespace Sys2Proof.Machine

/-- R155, decision D12: the verdict of a frame that failed a structural check. -/
def droppedVerdict (reason : BitVec 4) : Verdict :=
  { status := .dropped, reason := reason, vCalc := 0, rxHi := 0, rxLo := 0, payLen := 0 }

/-- R157, R158: the verdict of a frame that passed the structural checks, by the checksum compare. -/
def comparedVerdict (f : List Byte) (rxHi rxLo : Byte) : Verdict :=
  let computed := checksum f 1 (f.length - 6)
  { status := if csumMatch computed rxHi rxLo then .ok else .csumFail, reason := 0, vCalc := computed, rxHi := rxHi,
    rxLo := rxLo, payLen := f.length - 6 }

/-- R150: the verdict of a frame. A frame with no reason bit has at least 6 bytes (R156), so the received bytes are
there and the default is never taken. -/
def validate (f : List Byte) : Verdict :=
  if reasonMask f = 0 then comparedVerdict f ((fromEnd f 4).getD 0) ((fromEnd f 3).getD 0)
  else droppedVerdict (reasonMask f)

end Sys2Proof.Machine
end

