-- ==== Sys2Proof/Machine/Ops.lean ====
section
/-! DEFINITION. The shared operations: the frame buffer, the framer's registers, the emission and error events, and the
whole framer step on a byte (40_framer.md R100). -/

namespace Sys2Proof.Machine

/-! The frame buffer: the written bytes, indices strictly rising. Nothing is listed for a byte never written, so the
canonical form asks nothing more. -/

/-- The canonical form of the buffer. -/
abbrev memWf (m : List Host.Cell) : Prop := m.Pairwise (fun x y => x.1 < y.1)

/-- R40, R43: `MemRead(i, 1)`, `none` for a byte never written. -/
def memRead (m : List Host.Cell) (i : Nat) : Option Byte :=
  match m with
  | [] => none
  | (j, b) :: rest => if i = j then some b else memRead rest i

/-- R42: `MemWrite(i, 1, v)`. Every other byte keeps its value. -/
def memWrite (m : List Host.Cell) (i : Nat) (v : Byte) : List Host.Cell :=
  match m with
  | [] => [(i, v)]
  | (j, b) :: rest =>
    if i < j then (i, v) :: (j, b) :: rest
    else if i = j then (i, v) :: rest
    else (j, b) :: memWrite rest i v

/-- R43: the byte at an index where the spec gives one: the index exists and was written. -/
def definedByte (s : State) (i : Nat) : Option Byte := if i < s.config.cap then memRead s.buf i else none

/-- R43: the byte at an index, the `k`-th free value where the spec leaves it unspecified. -/
def byteAt (s : State) (k i : Nat) : Byte := (definedByte s i).getD (Config.freeByte k)

/-! One update for each thing an operation may change. -/

/-- R108: `frm_valid <- 0`. -/
def quiet (s : State) : State := { s with emission := none }

/-- R100: `st <- IDLE ; len <- 0`. -/
def toIdle (s : State) : State := { s with st := .idle, len := 0 }

/-- R42: `buf[i] <- b ; len <- i + 1 ; st <- PAYLOAD`. -/
def withByte (s : State) (i : Nat) (b : Byte) : State :=
  { s with st := .payload, len := i + 1, buf := memWrite s.buf i b }

/-- R108: the emission event of the step, and the free values its frame took. -/
def withEmission (s : State) (e : Emission) (used : Nat) : State :=
  { s with emission := some e, draws := s.draws + used }

/-- R31: U4's outputs of the step. -/
def withAngOut (s : State) (o : AngleOut) : State := { s with angOut := some o }

/-- R69: a request of the step that was refused, by its reason. -/
def withAngRefusal (s : State) (w : Refusal) : State := { s with angRefusal := some w }

/-- The result of one operation handed to the next. -/
def andThen (r : Result) (k : State → Result) : Result :=
  match r with
  | .next s => k s
  | .fault f => .fault f
  | .refused f => .refused f

/-- R6, R69: what becomes of a step whose request of U4 answers `r` from `s`. A refused request withholds U4's outputs and
is kept by its reason, and the step goes on with what the framer did (log entry 10). -/
def settleRequest (s : State) (r : Result) : Result :=
  match r with
  | .next t => .next t
  | .fault f => .fault f
  | .refused w => .next (withAngRefusal s w)

/-! Events (60_exceptions.md). An event saves nothing, changes no mode and transfers no control (R261), and there is
nothing to return from (R262): its whole effect is the outputs of its own step. `DROPPED` and `CSUM_FAIL` are the verdict
of an emission (`emitFrame`), `OVERFLOW` is `bufferFullGuard`, `RESYNC` is the restart in `transition`, and U4's two errors
are `raiseAngle`. -/

/-- R255, R256: U4's two errors. -/
inductive AngleError where
  | rangeViolation
  | formatError
  deriving DecidableEq, Repr

/-- R180, R261: taking a U4 error: its output is 1 and every value output is 0. -/
def raiseAngle (e : AngleError) : AngleOut :=
  match e with
  | .rangeViolation => { AngleOut.zero with errRange := true }
  | .formatError => { AngleOut.zero with errFormat := true }

/-- R45: the first `n` bytes of `buf`, as the validator reads them. -/
def frameBytes (s : State) (n : Nat) : List Byte := (List.range n).map (fun i => byteAt s (s.draws + i) i)

/-- The free values that reading `n` bytes takes: none when every byte was written, as in every state of R23. -/
def drawsOf (s : State) (n : Nat) : Nat := if (List.range n).all (fun i => (definedByte s i).isSome) then 0 else n

/-- R106, R108: `emit(len, validate(buf[0 .. len))) ; len <- 0 ; st <- IDLE`, for every verdict alike (R161). -/
def emitFrame (s : State) : State :=
  let f := frameBytes s s.len
  toIdle (withEmission s { frmLen := s.len, frame := f, verdict := validate f } (drawsOf s s.len))

/-- R102: the buffer-full guard, before the byte of the step is classified. `OVERFLOW` is silent (R253). -/
def bufferFullGuard (s : State) : State := if s.st = .payload ∧ s.len = s.config.cap then toIdle s else s

/-- R42: a byte stored at an index, which must exist (R40). -/
def storeByte (i : Nat) (b : Byte) (s : State) : Result :=
  if i < s.config.cap then .next (withByte s i b) else .fault (.noSuchIndex i)

/-- R100, part 2: the transition on `(st, class(b))`. -/
def transition (b : Byte) (s : State) : Result :=
  match s.st, classOf b with
  | .idle, .sof => storeByte 0 b s
  | .idle, .eof => .next s
  | .idle, .data => .next s
  | .payload, .sof => storeByte 0 b s
  | .payload, .eof => andThen (storeByte s.len b s) (fun t => .next (emitFrame t))
  | .payload, .data => storeByte s.len b s

/-- R100: the whole step on a byte, the guard first. The block refuses no byte (R29). -/
def acceptByte (b : Byte) (s : State) : Result := transition b (bufferFullGuard (quiet s))

end Sys2Proof.Machine
end

