-- ==== Sys2Proof/Machine/Angle.lean ====
section
/-! DEFINITION. U4, the Angle Unit (43_angle.md): the outputs of each operation as a function of its operands, and the
operations of `ang_op`. -/

namespace Sys2Proof.Machine

/-- R180: outputs that are delivered when the degree value is in range, else the error. -/
def whenInRange (frac : Nat) (k : Kind) (x : Int) (o : AngleOut) : AngleOut :=
  if inRange frac k x then o else raiseAngle .rangeViolation

/-- R184: the fraction of a degree of a magnitude, times 60: decimal minutes, exact. -/
def minutesOf (frac mag : Nat) : Nat := mag % one frac * 60

/-- R184: the whole degrees of a magnitude. -/
def wholeDegrees (frac mag : Nat) : BitVec 8 := BitVec.ofNat 8 (mag / one frac)

/-- R185: the whole minutes of decimal minutes. -/
def wholeMinutes (frac dm : Nat) : BitVec 7 := BitVec.ofNat 7 (dm / one frac)

/-- R185: the fraction of a minute of decimal minutes, times 60: decimal seconds, exact. -/
def secondsOf (frac dm : Nat) : Nat := dm % one frac * 60

/-- R184. -/
def deg2dmmResult (frac : Nat) (k : Kind) (x : Int) : AngleOut :=
  whenInRange frac k x
    { AngleOut.zero with
      neg := decide (x < 0), wd := wholeDegrees frac x.natAbs, dm := minutesOf frac x.natAbs }

/-- R185. No degree value, so no range check. -/
def dmm2dmsResult (frac dm : Nat) : AngleOut :=
  { AngleOut.zero with wm := wholeMinutes frac dm, ds := secondsOf frac dm }

/-- R186: `DEG2DMM` followed by `DMM2DMS` on its minutes. -/
def deg2dmsResult (frac : Nat) (k : Kind) (x : Int) : AngleOut :=
  whenInRange frac k x
    { AngleOut.zero with
      neg := decide (x < 0), wd := wholeDegrees frac x.natAbs,
      wm := wholeMinutes frac (minutesOf frac x.natAbs), ds := secondsOf frac (minutesOf frac x.natAbs) }

/-- R187: the degree value of components, unbounded, with floor division by 60 (R183). -/
def degOfDmm (frac : Nat) (neg : Bool) (wd dm : Nat) : Int := signed neg (wd * one frac + dm / 60)

/-- R187: the range test is made on the unbounded value, before truncation. -/
def dmm2degResult (frac : Nat) (k : Kind) (neg : Bool) (wd dm : Nat) : AngleOut :=
  whenInRange frac k (degOfDmm frac neg wd dm)
    { AngleOut.zero with deg := truncDeg frac (degOfDmm frac neg wd dm) }

/-- R188: the decimal minutes of whole minutes and decimal seconds, unbounded. -/
def dmOfDms (frac wm ds : Nat) : Nat := wm * one frac + ds / 60

/-- R188: as R187 with the decimal minutes of `dmOfDms`. -/
def dms2degResult (frac : Nat) (k : Kind) (neg : Bool) (wd wm ds : Nat) : AngleOut :=
  dmm2degResult frac k neg wd (dmOfDms frac wm ds)

/-- R190: the sign of the letter, or `FormatError`. -/
def hemiResult (c : Byte) : AngleOut :=
  match hemiSign c with
  | some n => { AngleOut.zero with neg := n }
  | none => raiseAngle .formatError

/-- R191: the operand itself when in range. -/
def rangechkResult (frac : Nat) (k : Kind) (x : Int) : AngleOut :=
  whenInRange frac k x { AngleOut.zero with deg := truncDeg frac x }

/-- R180: U4 drives its outputs and touches nothing else. A build without U4 has no such ports (decision D17). -/
def driveAngle (o : AngleOut) (s : State) : Result :=
  if s.config.hasAngle then .next (withAngOut s o) else .refused .noAngleUnit

/-- R184: `ang_op` 0. -/
def execDeg2dmm (s : State) : Result :=
  driveAngle (deg2dmmResult s.config.fracBits s.angIn.kind (degOperand s.config.fracBits s.angIn)) s

/-- R185: `ang_op` 1. -/
def execDmm2dms (s : State) : Result :=
  driveAngle (dmm2dmsResult s.config.fracBits (dmOperand s.config.fracBits s.angIn)) s

/-- R186: `ang_op` 2. -/
def execDeg2dms (s : State) : Result :=
  driveAngle (deg2dmsResult s.config.fracBits s.angIn.kind (degOperand s.config.fracBits s.angIn)) s

/-- R187: `ang_op` 3. -/
def execDmm2deg (s : State) : Result :=
  driveAngle (dmm2degResult s.config.fracBits s.angIn.kind s.angIn.neg s.angIn.wd.toNat
    (dmOperand s.config.fracBits s.angIn)) s

/-- R188: `ang_op` 4. -/
def execDms2deg (s : State) : Result :=
  driveAngle (dms2degResult s.config.fracBits s.angIn.kind s.angIn.neg s.angIn.wd.toNat s.angIn.wm.toNat
    (dsOperand s.config.fracBits s.angIn)) s

/-- R190: `ang_op` 5. -/
def execHemi2sign (s : State) : Result := driveAngle (hemiResult s.angIn.hemi) s

/-- R191: `ang_op` 6. -/
def execRangechk (s : State) : Result :=
  driveAngle (rangechkResult s.config.fracBits s.angIn.kind (degOperand s.config.fracBits s.angIn)) s

/-- R69: `ang_op` 7 is reserved. A model refuses it, with U4 present or absent. -/
def execAopRsvd (_s : State) : Result := .refused .reservedAngleOp

end Sys2Proof.Machine
end

