-- ==== Sys2Proof/Machine/Control.lean ====
section
/-! DEFINITION. The two step kinds without a byte: `RESET` and `IDLE_STEP`. -/

namespace Sys2Proof.Machine

/-- R280: `st <- IDLE ; len <- 0 ; frm_valid <- 0`. `buf` is not cleared (R281), and U4 is not affected (R284). -/
def execReset (s : State) : Result := .next (toIdle (quiet s))

/-- R101: `st`, `len`, `buf` keep their values, `frm_valid <- 0`. -/
def execIdleStep (s : State) : Result := .next (quiet s)

end Sys2Proof.Machine
end

