-- ==== Sys2Proof/Machine/Framer.lean ====
section
/-! DEFINITION. U1: the three classes of an input byte (40_framer.md), each in `IDLE` and in `PAYLOAD`. -/

namespace Sys2Proof.Machine

/-- R103 in `IDLE`, R105 in `PAYLOAD`, after the guard R102. -/
def execSof (s : State) : Result := acceptByte asciiDollar s

/-- R104 in `IDLE`, R106 in `PAYLOAD`, after the guard R102. -/
def execEof (s : State) : Result := acceptByte asciiLf s

/-- R104 in `IDLE`, R107 in `PAYLOAD`, after the guard R102. The byte is classified as R61 says, so the ill-formed terms
`data 0x24` and `data 0x0A` do what those bytes do (log entry 19). -/
def execData (b : Byte) (s : State) : Result := acceptByte b s

end Sys2Proof.Machine
end

