-- ==== Sys2Proof/Machine/Hemisphere.lean ====
section
/-! DEFINITION. The hemisphere rows (`HEMI`): a `HEMI2SIGN` request with that letter on `ang_hemi` (43_angle.md R190; log
entry 1). -/

namespace Sys2Proof.Machine

/-- R190: `N` gives `ang_o_neg` 0. -/
def execHemiUpperN (s : State) : Result := driveAngle (hemiResult 0x4E#8) s

/-- R190: `n` gives `ang_o_neg` 0. -/
def execHemiLowerN (s : State) : Result := driveAngle (hemiResult 0x6E#8) s

/-- R190: `E` gives `ang_o_neg` 0. -/
def execHemiUpperE (s : State) : Result := driveAngle (hemiResult 0x45#8) s

/-- R190: `e` gives `ang_o_neg` 0. -/
def execHemiLowerE (s : State) : Result := driveAngle (hemiResult 0x65#8) s

/-- R190: `S` gives `ang_o_neg` 1. -/
def execHemiUpperS (s : State) : Result := driveAngle (hemiResult 0x53#8) s

/-- R190: `s` gives `ang_o_neg` 1. -/
def execHemiLowerS (s : State) : Result := driveAngle (hemiResult 0x73#8) s

/-- R190: `W` gives `ang_o_neg` 1. -/
def execHemiUpperW (s : State) : Result := driveAngle (hemiResult 0x57#8) s

/-- R190: `w` gives `ang_o_neg` 1. -/
def execHemiLowerW (s : State) : Result := driveAngle (hemiResult 0x77#8) s

end Sys2Proof.Machine
end

