-- ==== Sys2Proof/Machine/HexChar.lean ====
section
/-! DEFINITION. The checksum-digit rows (`HEXCH`). A hex character is a byte of the stream and `DATA` to the framer (R61):
executing it offers that byte on the ingestion port, and the validator takes its value (30_encoding.md R63) where it stands
at index `n-4` or `n-3` of an emitted frame (log entry 1). -/

namespace Sys2Proof.Machine

/-- R63: the character `0`, of value 0. -/
def execHex0 (s : State) : Result := acceptByte 0x30#8 s

/-- R63: the character `1`, of value 1. -/
def execHex1 (s : State) : Result := acceptByte 0x31#8 s

/-- R63: the character `2`, of value 2. -/
def execHex2 (s : State) : Result := acceptByte 0x32#8 s

/-- R63: the character `3`, of value 3. -/
def execHex3 (s : State) : Result := acceptByte 0x33#8 s

/-- R63: the character `4`, of value 4. -/
def execHex4 (s : State) : Result := acceptByte 0x34#8 s

/-- R63: the character `5`, of value 5. -/
def execHex5 (s : State) : Result := acceptByte 0x35#8 s

/-- R63: the character `6`, of value 6. -/
def execHex6 (s : State) : Result := acceptByte 0x36#8 s

/-- R63: the character `7`, of value 7. -/
def execHex7 (s : State) : Result := acceptByte 0x37#8 s

/-- R63: the character `8`, of value 8. -/
def execHex8 (s : State) : Result := acceptByte 0x38#8 s

/-- R63: the character `9`, of value 9. -/
def execHex9 (s : State) : Result := acceptByte 0x39#8 s

/-- R63: the character `A`, of value 10. -/
def execHexUpperA (s : State) : Result := acceptByte 0x41#8 s

/-- R63: the character `B`, of value 11. -/
def execHexUpperB (s : State) : Result := acceptByte 0x42#8 s

/-- R63: the character `C`, of value 12. -/
def execHexUpperC (s : State) : Result := acceptByte 0x43#8 s

/-- R63: the character `D`, of value 13. -/
def execHexUpperD (s : State) : Result := acceptByte 0x44#8 s

/-- R63: the character `E`, of value 14. -/
def execHexUpperE (s : State) : Result := acceptByte 0x45#8 s

/-- R63: the character `F`, of value 15. -/
def execHexUpperF (s : State) : Result := acceptByte 0x46#8 s

/-- R63: the character `a`, of value 10. -/
def execHexLowerA (s : State) : Result := acceptByte 0x61#8 s

/-- R63: the character `b`, of value 11. -/
def execHexLowerB (s : State) : Result := acceptByte 0x62#8 s

/-- R63: the character `c`, of value 12. -/
def execHexLowerC (s : State) : Result := acceptByte 0x63#8 s

/-- R63: the character `d`, of value 13. -/
def execHexLowerD (s : State) : Result := acceptByte 0x64#8 s

/-- R63: the character `e`, of value 14. -/
def execHexLowerE (s : State) : Result := acceptByte 0x65#8 s

/-- R63: the character `f`, of value 15. -/
def execHexLowerF (s : State) : Result := acceptByte 0x66#8 s

end Sys2Proof.Machine
end

