-- ==== Sys2Proof/Machine/Marker.lean ====
section
/-! DEFINITION. The marker rows (`MARK`). A marker is a byte of the stream: executing it offers that byte on the ingestion
port, and the validator tests it at its position in the emission step (42_validator.md R152 to R154; log entry 1). -/

namespace Sys2Proof.Machine

/-- R152, R103, R105: `$` is stored at index 0, where check 2 of the validator looks for it. -/
def execMDollar (s : State) : Result := acceptByte asciiDollar s

/-- R153, R107: `<CR>` is a `DATA` byte to the framer, and check 3 looks for it at index `n-2` of an emitted frame. -/
def execMCr (s : State) : Result := acceptByte asciiCr s

/-- R153, R106: `<LF>` ends the frame, and check 3 looks for it at index `n-1`. -/
def execMLf (s : State) : Result := acceptByte asciiLf s

/-- R154, R107: `*` is a `DATA` byte to the framer, and check 4 looks for it at index `n-5` of an emitted frame. -/
def execMStar (s : State) : Result := acceptByte asciiStar s

end Sys2Proof.Machine
end

