-- ==== Sys2Proof/Machine/Dispatch.lean ====
section
/-! DEFINITION. One arm for each operation, each a direct call of its meaning. -/

namespace Sys2Proof.Machine

def exec (i : Instr) (s : State) : Host.Outcome State Fault Refusal :=
  match i with
  | .reset => Sys2Proof.Machine.execReset s
  | .idleStep => Sys2Proof.Machine.execIdleStep s
  | .sof => Sys2Proof.Machine.execSof s
  | .eof => Sys2Proof.Machine.execEof s
  | .data b => Sys2Proof.Machine.execData b s
  | .mDollar => Sys2Proof.Machine.execMDollar s
  | .mCr => Sys2Proof.Machine.execMCr s
  | .mLf => Sys2Proof.Machine.execMLf s
  | .mStar => Sys2Proof.Machine.execMStar s
  | .hex0 => Sys2Proof.Machine.execHex0 s
  | .hex1 => Sys2Proof.Machine.execHex1 s
  | .hex2 => Sys2Proof.Machine.execHex2 s
  | .hex3 => Sys2Proof.Machine.execHex3 s
  | .hex4 => Sys2Proof.Machine.execHex4 s
  | .hex5 => Sys2Proof.Machine.execHex5 s
  | .hex6 => Sys2Proof.Machine.execHex6 s
  | .hex7 => Sys2Proof.Machine.execHex7 s
  | .hex8 => Sys2Proof.Machine.execHex8 s
  | .hex9 => Sys2Proof.Machine.execHex9 s
  | .hexUpperA => Sys2Proof.Machine.execHexUpperA s
  | .hexUpperB => Sys2Proof.Machine.execHexUpperB s
  | .hexUpperC => Sys2Proof.Machine.execHexUpperC s
  | .hexUpperD => Sys2Proof.Machine.execHexUpperD s
  | .hexUpperE => Sys2Proof.Machine.execHexUpperE s
  | .hexUpperF => Sys2Proof.Machine.execHexUpperF s
  | .hexLowerA => Sys2Proof.Machine.execHexLowerA s
  | .hexLowerB => Sys2Proof.Machine.execHexLowerB s
  | .hexLowerC => Sys2Proof.Machine.execHexLowerC s
  | .hexLowerD => Sys2Proof.Machine.execHexLowerD s
  | .hexLowerE => Sys2Proof.Machine.execHexLowerE s
  | .hexLowerF => Sys2Proof.Machine.execHexLowerF s
  | .hemiUpperN => Sys2Proof.Machine.execHemiUpperN s
  | .hemiLowerN => Sys2Proof.Machine.execHemiLowerN s
  | .hemiUpperE => Sys2Proof.Machine.execHemiUpperE s
  | .hemiLowerE => Sys2Proof.Machine.execHemiLowerE s
  | .hemiUpperS => Sys2Proof.Machine.execHemiUpperS s
  | .hemiLowerS => Sys2Proof.Machine.execHemiLowerS s
  | .hemiUpperW => Sys2Proof.Machine.execHemiUpperW s
  | .hemiLowerW => Sys2Proof.Machine.execHemiLowerW s
  | .deg2dmm => Sys2Proof.Machine.execDeg2dmm s
  | .dmm2dms => Sys2Proof.Machine.execDmm2dms s
  | .deg2dms => Sys2Proof.Machine.execDeg2dms s
  | .dmm2deg => Sys2Proof.Machine.execDmm2deg s
  | .dms2deg => Sys2Proof.Machine.execDms2deg s
  | .hemi2sign => Sys2Proof.Machine.execHemi2sign s
  | .rangechk => Sys2Proof.Machine.execRangechk s
  | .aopRsvd => Sys2Proof.Machine.execAopRsvd s

end Sys2Proof.Machine
end

