-- ==== Sys2Proof/Machine/Clock.lean ====
section
/-! DEFINITION. One clock cycle around `exec` (00_scope.md R6): which operations a cycle's inputs ask for, the read port, and
the two units side by side. -/

namespace Sys2Proof.Machine

/-- The inputs of the next step. With nothing pending the environment offers nothing. -/
def nextCycle (s : State) : ClockCycle := s.pending.head?.getD ClockCycle.idle

/-- The format by which an offered byte is named. -/
def nameFormat (n : ByteName) : Format :=
  match n with
  | .byClass => .byte
  | .byMark => .mark
  | .byHex => .hexch

/-- R28, R280: the word of the framer's inputs: `rst` first, then `in_valid`, then the byte. -/
def framerWord (c : ClockCycle) : TableWord :=
  if c.rst then ⟨.ctrl, 1⟩ else if c.inValid then ⟨nameFormat c.inName, c.inData⟩ else ⟨.ctrl, 0⟩

/-- The framer's operation in a cycle. The block refuses no byte (R29), so a byte that its name does not fit is taken by
its class. -/
def framerInstr (c : ClockCycle) : Instr :=
  match decode (framerWord c) with
  | .ok i => i
  | .error _ => decodeByte c.inData

/-- R31: the word of U4's inputs. -/
def angleWord (r : AngleReq) : TableWord :=
  match r.code with
  | .op code => ⟨.aop, code.setWidth 8⟩
  | .letter => ⟨.hemi, r.ports.hemi⟩

/-- U4's operation for a request. A byte that is no hemisphere letter is left to `HEMI2SIGN`, which raises `FormatError`
(R190). -/
def angleInstr (r : AngleReq) : Instr :=
  match decode (angleWord r) with
  | .ok i => i
  | .error _ => .hemi2sign

/-- R8, R43: the index a read address selects, its low `ADDR_W` bits. -/
def readIndex (c : Config) (addr : Nat) : Nat := addr % 2 ^ addrWidth c

/-- R43: `rd_data`, from the state at the start of the step. -/
def readPort (s : State) (addr : Nat) : Byte := byteAt s s.draws (readIndex s.config addr)

/-- The free values the read of a cycle takes. -/
def readDraws (s : State) (addr : Nat) : Nat := if (definedByte s (readIndex s.config addr)).isSome then 0 else 1

/-- The start of a step: its inputs are taken, `rd_data` is driven, U4's operand ports are driven when there is a request,
and U4's outputs and refusal of the step before are over. -/
def beginCycle (s : State) : State :=
  { s with
    pending := s.pending.tail
    rdData := (nextCycle s).rdAddr.map (readPort s)
    draws := s.draws + ((nextCycle s).rdAddr.map (readDraws s)).getD 0
    angIn := ((nextCycle s).angle.map (fun r => r.ports)).getD s.angIn
    angOut := none
    angRefusal := none }

/-- R6, R260: a U4 request of the same cycle, independent of the framer's operation. Whatever becomes of it, the framer's
part of the step stands. -/
def requestPart (req : Option AngleReq) (s : State) : Result :=
  match req with
  | none => .next s
  | some r => settleRequest s (exec (angleInstr r) s)

/-- R6: one cycle: the framer's operation, then U4's where one is requested. The order of the two makes no difference
(R260). -/
def runCycle (s : State) : Result :=
  andThen (exec (framerInstr (nextCycle s)) (beginCycle s)) (requestPart (nextCycle s).angle)

/-- R8: a build with illegal parameters is refused (93_implementation_defined.md U12), else the step is its cycle. -/
def guardedCycle (s : State) : Result := if s.config.legal then runCycle s else .refused .illegalParameters

/-- R74: a cycle that offers one byte. -/
def offerByte (b : Byte) : ClockCycle := { ClockCycle.idle with inValid := true, inData := b }

/-- R7, R73, R74: a program, the bytes offered one a step from the next step on. -/
def withProgram (s : State) (bs : List Byte) : State := { s with pending := bs.map offerByte }

/-- The cycle that presents a table word at the place its format names. U4's other operand ports keep the values `ports`. -/
def cycleOfWord (ports : AngleIn) (w : TableWord) : ClockCycle :=
  match w.format with
  | .ctrl => { ClockCycle.idle with rst := decide (w.bits = 1#8) }
  | .byte => offerByte w.bits
  | .mark => { offerByte w.bits with inName := .byMark }
  | .hexch => { offerByte w.bits with inName := .byHex }
  | .hemi => { ClockCycle.idle with angle := some { code := .letter, ports := { ports with hemi := w.bits } } }
  | .aop => { ClockCycle.idle with angle := some { code := .op (w.bits.setWidth 3), ports := ports } }

/-- The state whose next step presents the table word. -/
def withTableWord (s : State) (nbits w : Nat) : State :=
  { s with pending := cycleOfWord s.angIn (tableWord nbits w) :: s.pending }

end Sys2Proof.Machine
end

