-- ==== Sys2Proof/Machine/Step.lean ====
section
/-! DEFINITION. One step: one clock cycle (00_scope.md R6). -/

namespace Sys2Proof.Machine

/-- R6: one clock cycle on the inputs that come next. -/
def step (s : State) : Host.Outcome State Fault Refusal := guardedCycle s

/-- The host's placement of a table word where the next step takes its inputs (log entry 2). -/
def State.withFetchWord (s : State) (nbits w : Nat) : State := withTableWord s nbits w

end Sys2Proof.Machine
end

