-- ==== Sys2Proof/Safety.lean ====
section
/-! DEFINITION. What a run of the block may rely on and what it shows: the invariant of 10_state.md R23, the view of
20_memory.md R44, the silent events of 60_exceptions.md, and the observation of a run. -/

namespace Sys2Proof.Machine

/-- R23 (iv): a stored byte that is neither `$` nor `<LF>`. -/
def plainByte (o : Option Byte) : Bool :=
  match o with
  | some b => decide (classOf b = .data)
  | none => false

/-- R32, R40: the buffer is in canonical form and holds indices below `CAP` only. -/
abbrev BufferInv (s : State) : Prop := memWf s.buf ∧ ∀ c ∈ s.buf, c.1 < s.config.cap

/-- R23 (i): no bytes are counted while no frame is in progress. -/
abbrev IdleInv (s : State) : Prop := s.st = .idle → s.len = 0

/-- R23 (ii), (iii), (iv): a frame in progress has 1 to `CAP` bytes, all of them written, `$` the first, and no `$` or
`<LF>` after it. -/
abbrev FrameInv (s : State) : Prop :=
  s.st = .payload →
    1 ≤ s.len ∧ s.len ≤ s.config.cap ∧ memRead s.buf 0 = some asciiDollar ∧
      ∀ i < s.len, 1 ≤ i → plainByte (memRead s.buf i) = true

/-- R23, with the legal parameters of R8. -/
abbrev FramerInv (s : State) : Prop := s.config.legal = true ∧ BufferInv s ∧ IdleInv s ∧ FrameInv s

/-- R44: reads of the indices of a frame return its bytes. -/
abbrev ViewHolds (s : State) (f : List Byte) : Prop := ∀ i < f.length, memRead s.buf i = f[i]?

/-- R290: a cycle in which the block accepts a `$`, after which the view is no longer promised. -/
def acceptsDollar (c : ClockCycle) : Bool := !c.rst && c.inValid && decide (c.inData = asciiDollar)

/-- R253: the guard fires on the byte of the step. It is silent: this is a name for claims, not an output. -/
def overflows (s : State) : Bool := decide (s.st = .payload) && decide (s.len = s.config.cap)

/-- R254: a byte abandons the frame in progress, silently. -/
def resyncs (b : Byte) (s : State) : Bool :=
  decide (s.st = .payload) && !overflows s && decide (classOf b = .sof)

/-- R7: the observation of a run, the emission event of each of the next `k` steps, up to a stop. -/
def emissions (k : Nat) (s : State) : List (Option Emission) :=
  match k with
  | 0 => []
  | k + 1 =>
    match step s with
    | .next t => t.emission :: emissions k t
    | .fault _ => []
    | .refused _ => []

/-- R7: the state after `k` steps. -/
def runSteps (k : Nat) (s : State) : Result :=
  match k with
  | 0 => .next s
  | k + 1 => andThen (step s) (runSteps k)

/-- R108: the emission event of a frame. -/
def emissionOf (f : List Byte) : Emission := { frmLen := f.length, frame := f, verdict := validate f }

/-- R6, R66: an operation that offers a byte on the ingestion port: the formats `BYTE`, `MARK` and `HEXCH`. -/
def offersByte (i : Instr) : Bool :=
  decide ((encode i).format = .byte) || decide ((encode i).format = .mark) || decide ((encode i).format = .hexch)

/-- R66: an operation of U4: the formats `HEMI` and `AOP`. -/
def asksAngle (i : Instr) : Bool := decide ((encode i).format = .hemi) || decide ((encode i).format = .aop)

/-- One operation after another. -/
def execAll (is : List Instr) (s : State) : Result :=
  match is with
  | [] => .next s
  | i :: rest => andThen (exec i s) (execAll rest)

/-- R30: the value outputs of U4 fit their ports. -/
abbrev FitsPorts (frac : Nat) (o : AngleOut) : Prop :=
  o.deg < 2 ^ degWidth frac ∧ o.dm < 2 ^ minWidth frac ∧ o.ds < 2 ^ minWidth frac

end Sys2Proof.Machine
end

