-- ==== Sys2Proof/Certificates/Slice0/Obligations.lean ====
section
/-! DEFINITION. The statements about the block. In them an operation that offers a byte (`offersByte`) is one of the
formats `BYTE`, `MARK` and `HEXCH`: `SOF`, `EOF`, `DATA b`, `M_DOLLAR`, `M_CR`, `M_LF`, `M_STAR`, `HEX_0` to `HEX_9`, `HEX_A` to
`HEX_F`, `HEX_a` to `HEX_f`; its byte is `(encode i).bits`. An operation of U4 (`asksAngle`) is one of the formats `HEMI` and
`AOP`. -/

open Sys2Proof Sys2Proof.Machine

/-! ## Encodings -/

/-- R66: no bit of an encoding is dropped: decoding the encoding of a well-formed operation gives it back. -/
def Obligations.DecodeOfEncodeGivesTheOperation : Prop :=
  ∀ i : Instr, i.wellFormed = true → decode (encode i) = .ok i

/-- R66: at each place a value has at most one meaning, and what is decoded is well-formed and encodes to the value. -/
def Obligations.DecodedOperationEncodesToItsWord : Prop :=
  ∀ (w : TableWord) (i : Instr), decode w = .ok i → i.wellFormed = true ∧ encode i = w

/-- R61: the three classes, total over the 256 values, and the twelve `DATA` blocks that with 0x0A and 0x24 cover every value
exactly once. -/
def Obligations.FramerClassesCoverEveryByteOnce : Prop :=
  (∀ b : Byte, classOf b = .sof ↔ b = 0x24#8) ∧ (∀ b : Byte, classOf b = .eof ↔ b = 0x0A#8) ∧
    (∀ b : Byte, classOf b = .data ↔ b ≠ 0x24#8 ∧ b ≠ 0x0A#8) ∧
    (∀ b : Byte, ((frameByteRows ++ dataRows).filter (fun r => rowMatches r b)).length = 1) ∧
    (∀ b : Byte, decode ⟨.byte, b⟩ = .ok (decodeByte b))

/-- R66, R67, R69: words of each format written out from the opcode map decode to the operation they stand for. -/
def Obligations.WrittenOutWordsDecode : Prop :=
  decode ⟨.ctrl, 0b1#8⟩ = .ok .reset ∧ decode ⟨.ctrl, 0b0#8⟩ = .ok .idleStep ∧
    decode ⟨.byte, 0b00100100#8⟩ = .ok .sof ∧ decode ⟨.byte, 0b00001010#8⟩ = .ok .eof ∧
    decode ⟨.byte, 0b01000111#8⟩ = .ok (.data 0x47#8) ∧ decode ⟨.mark, 0b00101010#8⟩ = .ok .mStar ∧
    decode ⟨.hexch, 0b01100001#8⟩ = .ok .hexLowerA ∧ decode ⟨.hemi, 0b01010111#8⟩ = .ok .hemiUpperW ∧
    decode ⟨.aop, 0b100#8⟩ = .ok .dms2deg ∧ decode ⟨.aop, 0b111#8⟩ = .ok .aopRsvd

/-- R66, R68, R69: exactly the hex characters, the four markers and the eight hemisphere letters have a meaning at their
places, and a `HEXCH` row's value is its `hexval`. -/
def Obligations.CharacterRowsAreTheCharacterFunctions : Prop :=
  (∀ b : Byte, (∃ i, decode ⟨.hexch, b⟩ = .ok i) ↔ hexval b ≠ none) ∧
    (∀ b : Byte, (∃ i, decode ⟨.hemi, b⟩ = .ok i) ↔ hemiSign b ≠ none) ∧
    (∀ b : Byte, (∃ i, decode ⟨.mark, b⟩ = .ok i) ↔ b = 0x24#8 ∨ b = 0x0D#8 ∨ b = 0x0A#8 ∨ b = 0x2A#8) ∧
    hexval (encode .hex0).bits = some 0 ∧ hexval (encode .hex9).bits = some 9 ∧
    hexval (encode .hexUpperA).bits = some 10 ∧ hexval (encode .hexLowerA).bits = some 10 ∧
    hexval (encode .hexUpperF).bits = some 15 ∧ hexval (encode .hexLowerF).bits = some 15

/-- R63: `hexval` on every byte, by the three ranges. -/
def Obligations.HexvalByRanges : Prop :=
  ∀ c : Byte,
    (0x30 ≤ c.toNat ∧ c.toNat ≤ 0x39 → hexval c = some (c.toNat - 0x30)) ∧
    (0x41 ≤ c.toNat ∧ c.toNat ≤ 0x46 → hexval c = some (c.toNat - 0x41 + 10)) ∧
    (0x61 ≤ c.toNat ∧ c.toNat ≤ 0x66 → hexval c = some (c.toNat - 0x61 + 10)) ∧
    (¬(0x30 ≤ c.toNat ∧ c.toNat ≤ 0x39) ∧ ¬(0x41 ≤ c.toNat ∧ c.toNat ≤ 0x46) ∧
      ¬(0x61 ≤ c.toNat ∧ c.toNat ≤ 0x66) → hexval c = none)

/-- R64, R65: `hex2` spells a value in two upper-case hex characters, high digit first, and they are read back as it. -/
def Obligations.SpelledChecksumIsReadBack : Prop :=
  ∀ v : Byte,
    receivedChecksum (hex2 v).1 (hex2 v).2 = some v.toNat ∧
      hexval (hex2 v).1 = some (v.toNat / 16) ∧ hexval (hex2 v).2 = some (v.toNat % 16) ∧
      upperByte (hex2 v).1 = (hex2 v).1 ∧ upperByte (hex2 v).2 = (hex2 v).2

/-- R8, R21, R70, R72: the codes of `st`, `v_status` (3 is none) and `ang_kind`, and the derived widths: `LEN_W` is the least width
that holds `CAP`, `ADDR_W` holds every index and is at least 1, and the default build has 11, 10 and 41 bits for `LEN_W`,
`ADDR_W` and `AW`. -/
def Obligations.PortCodesAndWidths : Prop :=
  (framerCode .idle = 0 ∧ framerCode .payload = 1 ∧ statusCode .ok = 0 ∧ statusCode .dropped = 1 ∧
    statusCode .csumFail = 2 ∧ (∀ v : Status, statusCode v ≠ 3) ∧ kindCode .lat = 0 ∧ kindCode .lon = 1) ∧
    (∀ c : Config, 1 ≤ c.cap →
      c.cap < 2 ^ lenWidth c ∧ 2 ^ (lenWidth c - 1) ≤ c.cap ∧ c.cap ≤ 2 ^ addrWidth c ∧ 1 ≤ addrWidth c) ∧
    lenWidth Config.default = 11 ∧ addrWidth Config.default = 10 ∧ degWidth Config.default.fracBits = 41

/-! ## The framer -/

/-- R280: `RESET` puts the framer in `(IDLE, 0)` and emits nothing, a step with `rst = 1` does so whatever byte is offered,
and `buf` keeps its bytes, whatever is asked of U4. -/
def Obligations.ResetReturnsTheFramerToIdle : Prop :=
  (∀ s : State, exec .reset s = .next { s with st := .idle, len := 0, emission := none }) ∧
    ∀ (s : State) (c : ClockCycle) (rest : List ClockCycle), s.config.legal = true → s.pending = c :: rest →
      c.rst = true →
      ∃ t, step s = .next t ∧ t.st = .idle ∧ t.len = 0 ∧ t.emission = none ∧ t.buf = s.buf ∧ t.pending = rest

/-- R101: `IDLE_STEP` and a step with `in_valid = 0` keep `st`, `len` and `buf` and emit nothing. -/
def Obligations.IdleStepKeepsTheFramer : Prop :=
  (∀ s : State, exec .idleStep s = .next { s with emission := none }) ∧
    ∀ (s : State) (c : ClockCycle) (rest : List ClockCycle), s.config.legal = true → s.pending = c :: rest →
      c.rst = false → c.inValid = false →
      ∃ t, step s = .next t ∧ t.st = s.st ∧ t.len = s.len ∧ t.buf = s.buf ∧ t.emission = none

/-- R103: `$` in `IDLE` is stored at index 0 and starts a frame. That a `MARK` or `HEXCH` row is executed as its byte is
the model's choice (log entry 1). -/
def Obligations.DollarStartsAFrame : Prop :=
  ∀ (i : Instr) (s : State), i = .sof ∨ i = .mDollar → 1 ≤ s.config.cap → s.st = .idle →
    exec i s =
      .next { s with st := .payload, len := 1, buf := memWrite s.buf 0 0x24#8, emission := none }

/-- R104: any other byte in `IDLE` is discarded: `st`, `len` and `buf` unchanged, nothing emitted. That a `MARK` or
`HEXCH` row is executed as its byte is the model's choice (log entry 1). -/
def Obligations.BytesOutsideAFrameAreDiscarded : Prop :=
  ∀ (i : Instr) (s : State), offersByte i = true → (encode i).bits ≠ 0x24#8 → s.st = .idle →
    exec i s = .next { s with emission := none }

/-- R105: `$` in `PAYLOAD` restarts the frame at that `$`. That a `MARK` or `HEXCH` row is executed as its byte is the
model's choice (log entry 1). -/
def Obligations.DollarRestartsTheFrame : Prop :=
  ∀ (i : Instr) (s : State), i = .sof ∨ i = .mDollar → 1 ≤ s.config.cap → s.st = .payload →
    exec i s =
      .next { s with st := .payload, len := 1, buf := memWrite s.buf 0 0x24#8, emission := none }

/-- R102: with the buffer full the frame is lost before the byte is processed from `IDLE`: a `$` starts a new frame, any
other byte, `<LF>` too, is discarded, and nothing is emitted. That the byte is processed from `IDLE` is the spec's
decision D8 (log entry 13). That a `MARK` or `HEXCH` row is executed as its byte is the model's choice (log entry 1). -/
def Obligations.FullBufferLosesTheFrameSilently : Prop :=
  ∀ (i : Instr) (s : State), offersByte i = true → 1 ≤ s.config.cap → s.st = .payload → s.len = s.config.cap →
    ((encode i).bits ≠ 0x24#8 → exec i s = .next { s with st := .idle, len := 0, emission := none }) ∧
    ((encode i).bits = 0x24#8 →
      exec i s =
        .next { s with st := .payload, len := 1, buf := memWrite s.buf 0 0x24#8, emission := none })

/-- R107: any other byte in `PAYLOAD` is stored at index `len`, and `len` advances by 1. That a `MARK` or `HEXCH` row is
executed as its byte is the model's choice (log entry 1). -/
def Obligations.DataByteIsAppended : Prop :=
  ∀ (i : Instr) (s : State), offersByte i = true → (encode i).bits ≠ 0x24#8 → (encode i).bits ≠ 0x0A#8 →
    s.st = .payload → s.len < s.config.cap →
    exec i s =
      .next { s with len := s.len + 1, buf := memWrite s.buf s.len (encode i).bits, emission := none }

/-- R106, R108: `<LF>` in `PAYLOAD` is stored, the frame with it is emitted with its verdict, and the framer returns to
`(IDLE, 0)`. `f` is the frame in progress as it stands in `buf`. That a `MARK` or `HEXCH` row is executed as its byte
is the model's choice (log entry 1). -/
def Obligations.LineFeedEmitsTheFrame : Prop :=
  ∀ (i : Instr) (s : State) (f : List Byte), i = .eof ∨ i = .mLf → s.st = .payload → s.len < s.config.cap →
    f.length = s.len → (∀ k < s.len, memRead s.buf k = f[k]?) →
    exec i s =
      .next
        { s with
          st := .idle, len := 0, buf := memWrite s.buf s.len 0x0A#8
          emission :=
            some
              { frmLen := s.len + 1, frame := f ++ [0x0A#8], verdict := validate (f ++ [0x0A#8]) } }

/-- R20, R42: the frame of a byte offered. Nothing changes but `st`, `len`, `buf`, the emission outputs and the counter of
free values, and every byte of `buf` reads as before but the one stored: index 0 for `$`, else index `len` of the
state the guard leaves when that is in `PAYLOAD`, else none. That a `MARK` or `HEXCH` row is executed as its byte is
the model's choice (log entry 1). -/
def Obligations.ByteOperationFrame : Prop :=
  ∀ (i : Instr) (s t : State), offersByte i = true → exec i s = .next t →
    t.config = s.config ∧ t.pending = s.pending ∧ t.angIn = s.angIn ∧ t.rdData = s.rdData ∧
      t.angOut = s.angOut ∧ t.angRefusal = s.angRefusal ∧
      ∀ a : Nat,
        ((encode i).bits = 0x24#8 → a ≠ 0) →
        ((encode i).bits ≠ 0x24#8 → (bufferFullGuard (quiet s)).st = .payload →
          a ≠ (bufferFullGuard (quiet s)).len) →
        memRead t.buf a = memRead s.buf a

/-- R29, R100: the block accepts a byte in every state of R23, and the invariants hold after it. That a `MARK` or `HEXCH`
row is executed as its byte is the model's choice (log entry 1). -/
def Obligations.EveryByteIsAccepted : Prop :=
  ∀ (i : Instr) (s : State), offersByte i = true → FramerInv s → ∃ t, exec i s = .next t ∧ FramerInv t

/-- R23: the invariants of `(st, len, buf)` are preserved by every step, whatever the environment drives. -/
def Obligations.StepKeepsTheFramerInvariants : Prop :=
  ∀ s t : State, FramerInv s → step s = .next t → FramerInv t

/-- R23, R34: the invariants are true after reset, in every legal build. -/
def Obligations.ResetMeetsTheFramerInvariants : Prop :=
  FramerInv State.reset ∧ (∀ c : Config, c.legal = true → FramerInv (State.resetOf c)) ∧ State.reset.st = .idle ∧
    State.reset.len = 0 ∧ State.reset.emission = none ∧ ∀ k, memRead State.reset.buf k = none

/-- R109: every emitted frame has 2 to `CAP` bytes, starts with `$`, ends with `<LF>`, has neither between, and so its
`no_start` bit is never set and `no_term` means a missing `<CR>`. -/
def Obligations.EmittedFramesAreFramed : Prop :=
  ∀ (s t : State) (e : Emission), FramerInv s → step s = .next t → t.emission = some e →
    e.frmLen = e.frame.length ∧ 2 ≤ e.frmLen ∧ e.frmLen ≤ s.config.cap ∧ e.frame[0]? = some 0x24#8 ∧
      e.frame[e.frmLen - 1]? = some 0x0A#8 ∧
      (∀ k, 1 ≤ k → k < e.frmLen - 1 → e.frame[k]? ≠ some 0x24#8 ∧ e.frame[k]? ≠ some 0x0A#8) ∧
      e.verdict = validate e.frame ∧ noStart e.frame = false ∧
      (noTerm e.frame = true ↔ e.frame[e.frmLen - 2]? ≠ some 0x0D#8)

/-- R110: a string `$` ++ `p` ++ `<LF>` with no `$` or `<LF>` in `p` that fits the buffer, run from any state of R23,
gives exactly one emission, in its last step, of the whole string, and ends in `(IDLE, 0)`. The bytes are offered from
the model's list of inputs (log entry 3). -/
def Obligations.WholeSentenceGivesOneEmission : Prop :=
  ∀ (s : State) (p : List Byte), FramerInv s → (∀ b ∈ p, b ≠ 0x24#8 ∧ b ≠ 0x0A#8) → p.length + 2 ≤ s.config.cap →
    emissions (p.length + 2) (withProgram s ([0x24#8] ++ p ++ [0x0A#8])) =
        List.replicate (p.length + 1) none ++ [some (emissionOf ([0x24#8] ++ p ++ [0x0A#8]))] ∧
      ∃ t, runSteps (p.length + 2) (withProgram s ([0x24#8] ++ p ++ [0x0A#8])) = .next t ∧
        t.st = .idle ∧ t.len = 0

/-- R111: a stream that never contains `<LF>` never emits. -/
def Obligations.NoLineFeedNoEmission : Prop :=
  ∀ (s : State) (bs : List Byte), FramerInv s → (∀ b ∈ bs, b ≠ 0x0A#8) →
    emissions bs.length (withProgram s bs) = List.replicate bs.length none

/-- R112: after any byte string whatever, a sentence of R110 still yields its frame, in its last step. -/
def Obligations.NoBytesPreventALaterSentence : Prop :=
  ∀ (s : State) (before p : List Byte), FramerInv s → (∀ b ∈ p, b ≠ 0x24#8 ∧ b ≠ 0x0A#8) →
    p.length + 2 ≤ s.config.cap →
    ∃ earlier : List (Option Emission), earlier.length = before.length ∧
      emissions (before.length + (p.length + 2))
          (withProgram s (before ++ ([0x24#8] ++ p ++ [0x0A#8]))) =
        earlier ++ List.replicate (p.length + 1) none ++
          [some (emissionOf ([0x24#8] ++ p ++ [0x0A#8]))]

/-- R74, R101: idle steps put anywhere between the bytes change no emission and no state of the framer. `cs` is any
sequence of steps without reset, with any reads and any U4 requests, and the bytes it offers are run on their own
beside it. -/
def Obligations.IdleStepsBetweenBytesChangeNothing : Prop :=
  ∀ (s : State) (cs : List ClockCycle), FramerInv s → (∀ c ∈ cs, c.rst = false) →
    (emissions cs.length { s with pending := cs }).filterMap id =
        (emissions ((cs.filter (fun c => c.inValid)).length)
          (withProgram s ((cs.filter (fun c => c.inValid)).map (fun c => c.inData)))).filterMap id ∧
      ∃ t u, runSteps cs.length { s with pending := cs } = .next t ∧
        runSteps ((cs.filter (fun c => c.inValid)).length)
            (withProgram s ((cs.filter (fun c => c.inValid)).map (fun c => c.inData))) = .next u ∧
        t.st = u.st ∧ t.len = u.len ∧ t.buf = u.buf

/-- R135: the sentence made from a payload is emitted once, with status `OK`, the payload's checksum and its length. -/
def Obligations.WrappedPayloadIsAccepted : Prop :=
  ∀ (s : State) (p : List Byte), FramerInv s → (∀ b ∈ p, b ≠ 0x24#8 ∧ b ≠ 0x0A#8) → p.length + 6 ≤ s.config.cap →
    ∃ e : Emission,
      emissions (p.length + 6) (withProgram s (wrap p)) = List.replicate (p.length + 5) none ++ [some e] ∧
        e.frmLen = p.length + 6 ∧ e.frame = wrap p ∧ e.verdict.status = .ok ∧ e.verdict.reason = 0 ∧
        e.verdict.vCalc = checksum p 0 p.length ∧ e.verdict.payLen = p.length

/-- R62, R64, R152 to R158: the marker and digit operations in the order of the wire format. From a frame in progress `$`
++ `p`, executing `M_STAR`, two `HEXCH` operations, `M_CR` and `M_LF` emits the frame with no reason bit, and the
status is `OK` exactly when the two digits spell the checksum of `p`. That a `MARK` or `HEXCH` row is executed as its
byte is the model's choice (log entry 1). -/
def Obligations.MarkersAndDigitsCloseASentence : Prop :=
  ∀ (s : State) (p : List Byte) (hi lo : Instr) (h l : Nat), FramerInv s → s.st = .payload → s.len = p.length + 1 →
    (∀ k < p.length, memRead s.buf (k + 1) = p[k]?) → s.len + 5 ≤ s.config.cap →
    (encode hi).format = .hexch → (encode lo).format = .hexch →
    hexval (encode hi).bits = some h → hexval (encode lo).bits = some l →
    ∃ (t : State) (e : Emission), execAll [.mStar, hi, lo, .mCr, .mLf] s = .next t ∧ t.emission = some e ∧
      t.st = .idle ∧ t.len = 0 ∧ e.frmLen = p.length + 6 ∧
      e.frame = [0x24#8] ++ p ++ [0x2A#8, (encode hi).bits, (encode lo).bits, 0x0D#8, 0x0A#8] ∧
      e.verdict.reason = 0 ∧ e.verdict.vCalc = checksum p 0 p.length ∧
      e.verdict.rxHi = (encode hi).bits ∧ e.verdict.rxLo = (encode lo).bits ∧ e.verdict.payLen = p.length ∧
      (e.verdict.status = .ok ↔ 16 * h + l = (checksum p 0 p.length).toNat) ∧
      (e.verdict.status = .csumFail ↔ 16 * h + l ≠ (checksum p 0 p.length).toNat)

/-! ## The buffer, the view and the read port -/

/-- R42, R281: a step writes at most one byte, at index `len` or a `$` at index 0, and clears none. -/
def Obligations.StepWritesAtMostOneByte : Prop :=
  ∀ s t : State, step s = .next t →
    t.buf = s.buf ∨ t.buf = memWrite s.buf 0 0x24#8 ∨ ∃ b : Byte, t.buf = memWrite s.buf s.len b

/-- R44: right after an emission reads of the frame's indices return its bytes. -/
def Obligations.ViewIsCompleteAfterTheEmission : Prop :=
  ∀ (s t : State) (e : Emission), FramerInv s → step s = .next t → t.emission = some e →
    t.st = .idle ∧ e.frmLen = e.frame.length ∧ ViewHolds t e.frame

/-- R44, R290: between frames the view keeps its bytes through every step that accepts no `$`, resets and idle steps among
them, and the framer stays in `IDLE`. -/
def Obligations.ViewLastsUntilTheNextDollar : Prop :=
  ∀ (s t : State) (f : List Byte), s.st = .idle → ViewHolds s f → acceptsDollar (nextCycle s) = false →
    step s = .next t → t.st = .idle ∧ ViewHolds t f

/-- R43: `rd_data` is the byte as it stands at the start of the step. The last clause is the model's choice for a value the
spec leaves unspecified (log entry 7): a byte never written, or an index of `CAP` or more, takes the next free value,
whatever it is. -/
def Obligations.ReadPortShowsTheStartOfTheStep : Prop :=
  ∀ (s : State) (c : ClockCycle) (rest : List ClockCycle) (a : Nat), FramerInv s → s.pending = c :: rest →
    c.rdAddr = some a → a < 2 ^ addrWidth s.config →
    ∃ t, step s = .next t ∧
      (∀ b, a < s.config.cap → memRead s.buf a = some b → t.rdData = some b ∧ t.draws = s.draws) ∧
      (s.config.cap ≤ a ∨ memRead s.buf a = none →
        t.rdData = some (Config.freeByte s.draws) ∧ t.draws = s.draws + 1)

/-- R281: bytes of `buf` outside the frame in progress cannot affect its emission: two states that agree on the frame emit
the same. -/
def Obligations.LeftoverBytesCannotAffectTheVerdict : Prop :=
  ∀ (s u : State), FramerInv s → FramerInv u → s.config = u.config → s.st = .payload → u.st = .payload → s.len = u.len →
    s.len < s.config.cap → (∀ k < s.len, memRead s.buf k = memRead u.buf k) →
    ∃ t v, exec .eof s = .next t ∧ exec .eof u = .next v ∧ t.emission = v.emission ∧ t.emission ≠ none

/-! ## The checksum and the validator -/

/-- R130: the fold of a range, byte by byte: an empty range gives 0, a `start` at or past the end gives 0, a `length` past
the end is clamped, and the first byte of a range is folded with the rest of it. A start past the end is the spec's
decision D14 (log entry 13). -/
def Obligations.ChecksumOfARange : Prop :=
  ∀ (bs : List Byte) (start length : Nat),
    checksum bs start 0 = 0 ∧ (bs.length ≤ start → checksum bs start length = 0) ∧
      (bs.length - start ≤ length → checksum bs start length = checksum bs start (bs.length - start)) ∧
      ∀ h : start < bs.length,
        checksum bs start (length + 1) = bs[start] ^^^ checksum bs (start + 1) length

/-- R131: the checksum of a concatenation is the XOR of the parts' checksums, and the order of the bytes does not matter. -/
def Obligations.ChecksumOfAConcatenation : Prop :=
  (∀ p q : List Byte,
    checksum (p ++ q) 0 (p ++ q).length = checksum p 0 p.length ^^^ checksum q 0 q.length) ∧
    ∀ p q : List Byte, p.Perm q → checksum p 0 p.length = checksum q 0 q.length

/-- R133: replacing one byte `x` by `y` changes the result by `x ^ y`, so it changes when the bytes differ. -/
def Obligations.ChecksumSeesEverySingleByteChange : Prop :=
  ∀ (p q : List Byte) (x y : Byte),
    checksum (p ++ x :: q) 0 (p ++ x :: q).length ^^^ checksum (p ++ y :: q) 0 (p ++ y :: q).length = x ^^^ y ∧
      (x ≠ y → checksum (p ++ x :: q) 0 (p ++ x :: q).length ≠ checksum (p ++ y :: q) 0 (p ++ y :: q).length)

/-- R134: the compare is true exactly when both characters are hex and spell the value, and that is the case-insensitive
compare of the characters with the upper-case spelling. That a character that is not hex never matches is the spec's
decision D15 (log entry 13). -/
def Obligations.CompareIsCaseInsensitive : Prop :=
  ∀ computed hi lo : Byte,
    (csumMatch computed hi lo = true ↔
      ∃ h l, hexval hi = some h ∧ hexval lo = some l ∧ 16 * h + l = computed.toNat) ∧
    (csumMatch computed hi lo = true ↔
      upperByte hi = (hex2 computed).1 ∧ upperByte lo = (hex2 computed).2)

/-- R151 to R155, R71: each reason bit is its own check, all four evaluated, an index outside the frame counting as
failed. The index outside the frame is the spec's decision D11 (log entry 13). -/
def Obligations.ReasonBitsAreTheFourChecks : Prop :=
  ∀ f : List Byte,
    (validate f).reason.getLsbD 0 = decide (f.length < 5) ∧
    (validate f).reason.getLsbD 1 = decide (f[0]? ≠ some 0x24#8) ∧
    ((validate f).reason.getLsbD 2 = true ↔
      f.length < 2 ∨ f[f.length - 2]? ≠ some 0x0D#8 ∨ f[f.length - 1]? ≠ some 0x0A#8) ∧
    ((validate f).reason.getLsbD 3 = true ↔ f.length < 5 ∨ f[f.length - 5]? ≠ some 0x2A#8)

/-- R155, R159: any failed check drops the frame, whatever its checksum, with every other verdict output 0, and only a
failed check does. R151: a 5-byte frame is not too short, and is dropped all the same. The outputs at 0 are the spec's
decision D12 (log entry 13). -/
def Obligations.AnyFailedCheckDropsTheFrame : Prop :=
  ∀ f : List Byte,
    ((validate f).status = .dropped ↔ (validate f).reason ≠ 0) ∧
      ((validate f).reason ≠ 0 →
        (validate f).vCalc = 0 ∧ (validate f).rxHi = 0 ∧ (validate f).rxLo = 0 ∧ (validate f).payLen = 0) ∧
      (f.length = 5 → (validate f).reason ≠ 0 ∧ (validate f).reason.getLsbD 0 = false)

/-- R62, R156: a frame passes the structural checks exactly when it is `$`, a payload, `*`, two bytes, `<CR>`, `<LF>`, so it has
at least 6 bytes. -/
def Obligations.PassingFramesHaveTheWireFormat : Prop :=
  ∀ f : List Byte,
    ((validate f).reason = 0 ↔
      ∃ (p : List Byte) (h l : Byte), f = [0x24#8] ++ p ++ [0x2A#8, h, l, 0x0D#8, 0x0A#8]) ∧
      ((validate f).reason = 0 → 6 ≤ f.length)

/-- R157, R158: the verdict of a frame of the wire format: the payload's checksum, the two received bytes as they stand, the
payload's length, and `OK` exactly when the compare matches, else `CSUM_FAIL`. -/
def Obligations.VerdictOfAWireFormatFrame : Prop :=
  ∀ (p : List Byte) (h l : Byte),
    validate ([0x24#8] ++ p ++ [0x2A#8, h, l, 0x0D#8, 0x0A#8]) =
      { status := if csumMatch (checksum p 0 p.length) h l = true then .ok else .csumFail
        reason := 0, vCalc := checksum p 0 p.length, rxHi := h, rxLo := l, payLen := p.length }

/-! ## The Angle Unit -/

/-- R184: `DEG2DMM` of a value in range. -/
def Obligations.DegreesToMinutes : Prop :=
  ∀ s : State, s.config.hasAngle = true →
    inRange s.config.fracBits s.angIn.kind (degOperand s.config.fracBits s.angIn) = true →
    ∃ o : AngleOut, exec .deg2dmm s = .next { s with angOut := some o } ∧
      o.neg = decide (degOperand s.config.fracBits s.angIn < 0) ∧
      o.wd.toNat = (degOperand s.config.fracBits s.angIn).natAbs / 2 ^ s.config.fracBits ∧ o.wd.toNat ≤ 180 ∧
      o.dm = (degOperand s.config.fracBits s.angIn).natAbs % 2 ^ s.config.fracBits * 60 ∧
      o.dm < 60 * 2 ^ s.config.fracBits ∧ o.dm < 2 ^ (7 + s.config.fracBits) ∧
      o.deg = 0 ∧ o.wm = 0 ∧ o.ds = 0 ∧ o.errRange = false ∧ o.errFormat = false

/-- R185: `DMM2DMS`, on every operand. -/
def Obligations.MinutesToSeconds : Prop :=
  ∀ s : State, s.config.hasAngle = true →
    ∃ o : AngleOut, exec .dmm2dms s = .next { s with angOut := some o } ∧
      o.wm.toNat = s.angIn.dm % 2 ^ (7 + s.config.fracBits) / 2 ^ s.config.fracBits ∧
      o.ds = s.angIn.dm % 2 ^ s.config.fracBits * 60 ∧ o.ds < 2 ^ (7 + s.config.fracBits) ∧
      o.deg = 0 ∧ o.neg = false ∧ o.wd = 0 ∧ o.dm = 0 ∧ o.errRange = false ∧ o.errFormat = false

/-- R186: `DEG2DMS` of a value in range is `DEG2DMM` and then `DMM2DMS` of its minutes. -/
def Obligations.DegreesToSeconds : Prop :=
  ∀ s : State, s.config.hasAngle = true →
    inRange s.config.fracBits s.angIn.kind (degOperand s.config.fracBits s.angIn) = true →
    ∃ o m d : AngleOut, exec .deg2dms s = .next { s with angOut := some o } ∧
      exec .deg2dmm s = .next { s with angOut := some m } ∧
      exec .dmm2dms { s with angIn := { s.angIn with dm := m.dm } } =
        .next { s with angIn := { s.angIn with dm := m.dm }, angOut := some d } ∧
      o.neg = m.neg ∧ o.wd = m.wd ∧ o.wm = d.wm ∧ o.ds = d.ds ∧ o.dm = 0 ∧ o.deg = 0 ∧
      o.errRange = false ∧ o.errFormat = false

/-- R187: `DMM2DEG` of components whose unbounded value is in range: the output's value is that value exactly. Floor
division, and components of 60 minutes or more unchecked, are the spec's decisions D20 and D21 (log entry 13). -/
def Obligations.MinutesToDegrees : Prop :=
  ∀ (s : State) (x : Int), s.config.hasAngle = true →
    x = (if s.angIn.neg = true then -1 else 1) *
      ((s.angIn.wd.toNat * 2 ^ s.config.fracBits +
        s.angIn.dm % 2 ^ (7 + s.config.fracBits) / 60 : Nat) : Int) →
    inRange s.config.fracBits s.angIn.kind x = true →
    ∃ o : AngleOut, exec .dmm2deg s = .next { s with angOut := some o } ∧
      (BitVec.ofNat (9 + s.config.fracBits) o.deg).toInt = x ∧ o.deg < 2 ^ (9 + s.config.fracBits) ∧
      o.neg = false ∧ o.wd = 0 ∧ o.dm = 0 ∧ o.wm = 0 ∧ o.ds = 0 ∧ o.errRange = false ∧ o.errFormat = false

/-- R188: `DMS2DEG`, with the two nested floor divisions as the one division by 3600 they equal. Floor division, and
components of 60 or more unchecked, are the spec's decisions D20 and D21 (log entry 13). -/
def Obligations.SecondsToDegrees : Prop :=
  ∀ (s : State) (x : Int), s.config.hasAngle = true →
    x = (if s.angIn.neg = true then -1 else 1) *
      ((s.angIn.wd.toNat * 2 ^ s.config.fracBits +
        (s.angIn.wm.toNat * 60 * 2 ^ s.config.fracBits +
          s.angIn.ds % 2 ^ (7 + s.config.fracBits)) / 3600 : Nat) : Int) →
    inRange s.config.fracBits s.angIn.kind x = true →
    ∃ o : AngleOut, exec .dms2deg s = .next { s with angOut := some o } ∧
      (BitVec.ofNat (9 + s.config.fracBits) o.deg).toInt = x ∧ o.deg < 2 ^ (9 + s.config.fracBits) ∧
      o.neg = false ∧ o.wd = 0 ∧ o.dm = 0 ∧ o.wm = 0 ∧ o.ds = 0 ∧ o.errRange = false ∧ o.errFormat = false

/-- R190: `HEMI2SIGN` on every byte. -/
def Obligations.HemisphereLetterToSign : Prop :=
  ∀ s : State, s.config.hasAngle = true →
    (s.angIn.hemi ∈ [0x4E#8, 0x6E#8, 0x45#8, 0x65#8] →
      exec .hemi2sign s = .next { s with angOut := some AngleOut.zero }) ∧
    (s.angIn.hemi ∈ [0x53#8, 0x73#8, 0x57#8, 0x77#8] →
      exec .hemi2sign s = .next { s with angOut := some { AngleOut.zero with neg := true } }) ∧
    (s.angIn.hemi ∉ [0x4E#8, 0x6E#8, 0x45#8, 0x65#8, 0x53#8, 0x73#8, 0x57#8, 0x77#8] →
      exec .hemi2sign s = .next { s with angOut := some { AngleOut.zero with errFormat := true } })

/-- R190: the eight letters as operations of their own: `N`, `n`, `E`, `e` give the positive sign and `S`, `s`, `W`, `w`
the negative one, and each is `HEMI2SIGN` with its letter on `ang_hemi`. That a `HEMI` row is a request with its
letter is the model's choice (log entry 1). -/
def Obligations.HemisphereOperations : Prop :=
  ∀ s : State, s.config.hasAngle = true →
    (∀ i ∈ [Instr.hemiUpperN, .hemiLowerN, .hemiUpperE, .hemiLowerE],
      exec i s = .next { s with angOut := some AngleOut.zero }) ∧
    (∀ i ∈ [Instr.hemiUpperS, .hemiLowerS, .hemiUpperW, .hemiLowerW],
      exec i s = .next { s with angOut := some { AngleOut.zero with neg := true } }) ∧
    ∀ (i : Instr) (t : State), (encode i).format = .hemi → s.angIn.hemi = (encode i).bits →
      exec i s = .next t → exec .hemi2sign s = .next t

/-- R191: `RANGECHK` delivers a value in range as it stands on the port. -/
def Obligations.RangeCheckDeliversTheOperand : Prop :=
  ∀ s : State, s.config.hasAngle = true →
    inRange s.config.fracBits s.angIn.kind (degOperand s.config.fracBits s.angIn) = true →
    exec .rangechk s =
      .next { s with angOut := some { AngleOut.zero with deg := s.angIn.deg % 2 ^ (9 + s.config.fracBits) } }

/-- R180, R181, R255: a degree value outside the closed limits 90 and 180 raises `RangeViolation` in each of the five
operations that take or return one, and no value is delivered. The reverse operations test the unbounded value. Floor
division in them is the spec's decision D20 (log entry 13). -/
def Obligations.OutOfRangeDeliversNoValue : Prop :=
  ∀ s : State, s.config.hasAngle = true →
    (∀ i ∈ [Instr.deg2dmm, .deg2dms, .rangechk],
      ((limit s.config.fracBits s.angIn.kind : Int) < degOperand s.config.fracBits s.angIn ∨
        degOperand s.config.fracBits s.angIn < -(limit s.config.fracBits s.angIn.kind : Int)) →
      exec i s = .next { s with angOut := some { AngleOut.zero with errRange := true } }) ∧
    (limit s.config.fracBits s.angIn.kind <
        s.angIn.wd.toNat * 2 ^ s.config.fracBits + s.angIn.dm % 2 ^ (7 + s.config.fracBits) / 60 →
      exec .dmm2deg s = .next { s with angOut := some { AngleOut.zero with errRange := true } }) ∧
    (limit s.config.fracBits s.angIn.kind <
        s.angIn.wd.toNat * 2 ^ s.config.fracBits +
          (s.angIn.wm.toNat * 60 * 2 ^ s.config.fracBits +
            s.angIn.ds % 2 ^ (7 + s.config.fracBits)) / 3600 →
      exec .dms2deg s = .next { s with angOut := some { AngleOut.zero with errRange := true } })

/-- R181: the limits are closed, 90 degrees for `LAT` and 180 for `LON`, and one unit beyond is out of range. -/
def Obligations.LimitsAreClosed : Prop :=
  ∀ frac : Nat,
    inRange frac .lat (90 * 2 ^ frac) = true ∧ inRange frac .lat (-(90 * 2 ^ frac)) = true ∧
      inRange frac .lat (90 * 2 ^ frac + 1) = false ∧ inRange frac .lat (-(90 * 2 ^ frac) - 1) = false ∧
      inRange frac .lon (180 * 2 ^ frac) = true ∧ inRange frac .lon (-(180 * 2 ^ frac)) = true ∧
      inRange frac .lon (180 * 2 ^ frac + 1) = false ∧ inRange frac .lon (-(180 * 2 ^ frac) - 1) = false

/-- R189: the round trip is exact for every value in range: the components of `DEG2DMM` given to `DMM2DEG`, and those of
`DEG2DMS` given to `DMS2DEG`, return the operand. The other way the minutes come back less their remainder by 60. It
rests on floor division, the spec's decision D20 (log entry 13). -/
def Obligations.AngleRoundTripIsExact : Prop :=
  (∀ s : State, s.config.hasAngle = true →
    inRange s.config.fracBits s.angIn.kind (degOperand s.config.fracBits s.angIn) = true →
    (∃ o : AngleOut, exec .deg2dmm s = .next { s with angOut := some o } ∧
      exec .dmm2deg { s with angIn := { s.angIn with neg := o.neg, wd := o.wd, dm := o.dm } } =
        .next
          { s with
            angIn := { s.angIn with neg := o.neg, wd := o.wd, dm := o.dm }
            angOut := some { AngleOut.zero with deg := s.angIn.deg % 2 ^ (9 + s.config.fracBits) } }) ∧
    ∃ o : AngleOut, exec .deg2dms s = .next { s with angOut := some o } ∧
      exec .dms2deg { s with angIn := { s.angIn with neg := o.neg, wd := o.wd, wm := o.wm, ds := o.ds } } =
        .next
          { s with
            angIn := { s.angIn with neg := o.neg, wd := o.wd, wm := o.wm, ds := o.ds }
            angOut := some { AngleOut.zero with deg := s.angIn.deg % 2 ^ (9 + s.config.fracBits) } }) ∧
    ∀ frac wd dm : Nat, dm < 60 * 2 ^ frac → minutesOf frac (wd * 2 ^ frac + dm / 60) + dm % 60 = dm

/-- R180: an operation of U4 changes no state but its own outputs, which depend on the build and the operand ports only and
fit their ports, and an error delivers no value. -/
def Obligations.AngleOperationsAreFunctionsOfTheirPorts : Prop :=
  (∀ (i : Instr) (s t : State), asksAngle i = true → exec i s = .next t →
    ∃ o : AngleOut, t = { s with angOut := some o } ∧ FitsPorts s.config.fracBits o ∧
      (o.errRange = true ∨ o.errFormat = true →
        o.deg = 0 ∧ o.neg = false ∧ o.wd = 0 ∧ o.dm = 0 ∧ o.wm = 0 ∧ o.ds = 0)) ∧
    ∀ (i : Instr) (s t u v : State), asksAngle i = true → s.config = u.config → s.angIn = u.angIn →
      exec i s = .next t → exec i u = .next v → t.angOut = v.angOut

/-- R69: `AOP_RSVD` is refused. What a step does with the refusal is the statement
StepsNeverStopAndRequestsLeaveTheFramer. -/
def Obligations.ReservedAngleOperationIsRefused : Prop :=
  ∀ s : State, exec .aopRsvd s = .refused .reservedAngleOp

/-- R8: a build without U4 has no angle operation. That the model refuses one is its own choice (log entry 12). -/
def Obligations.WithoutAngleUnitNoAngleOperation : Prop :=
  ∀ (i : Instr) (s : State), asksAngle i = true → i ≠ .aopRsvd → s.config.hasAngle = false →
    exec i s = .refused .noAngleUnit

/-! ## The machine as a whole -/

/-- R6, R280, R101, R100: a step takes the inputs that come next, drives `rd_data` from the state at its start, and runs the
operation those inputs decode to: `RESET`, else `IDLE_STEP`, else the byte's. With a U4 request it runs U4's operation
too, and a request that U4 refuses leaves what the framer did. These are the model's choices: the inputs are a list, idle
when it is empty (log entry 3), a byte and a letter have names (log entry 4), U4's operation comes second and a refused
request is kept by its reason (log entries 10 and 12), a read is optional, and what it takes where the spec gives no value
is drawn (log entries 7 and 17), and without a request U4's ports keep their values and its outputs are absent (log
entry 22). -/
def Obligations.StepRunsTheDecodedOperation : Prop :=
  (∀ (s : State) (c : ClockCycle) (rest : List ClockCycle), s.config.legal = true → s.pending = c :: rest →
    step s =
      andThen
        (exec (framerInstr c)
          { s with
            pending := rest
            rdData := c.rdAddr.map (readPort s)
            draws := s.draws + (c.rdAddr.map (readDraws s)).getD 0
            angIn := (c.angle.map (fun r => r.ports)).getD s.angIn
            angOut := none
            angRefusal := none })
        (requestPart c.angle)) ∧
    (∀ s : State, s.config.legal = true → s.pending = [] →
      step s =
        exec .idleStep
          { s with pending := [], rdData := none, draws := s.draws, angOut := none, angRefusal := none }) ∧
    (∀ c : ClockCycle, c.rst = true → framerInstr c = .reset) ∧
    (∀ c : ClockCycle, c.rst = false → c.inValid = false → framerInstr c = .idleStep) ∧
    (∀ c : ClockCycle, c.rst = false → c.inValid = true → c.inName = .byClass → framerInstr c = decodeByte c.inData) ∧
    (∀ (c : ClockCycle) (i : Instr), c.rst = false → c.inValid = true →
      decode ⟨nameFormat c.inName, c.inData⟩ = .ok i → framerInstr c = i) ∧
    (∀ s : State, requestPart none s = .next s) ∧
    ∀ (r : AngleReq) (i : Instr) (s : State),
      decode (angleWord r) = .ok i ∨ (∀ j, decode (angleWord r) ≠ .ok j) ∧ i = .hemi2sign →
      (∀ t, exec i s = .next t → requestPart (some r) s = .next t) ∧
        ∀ w, exec i s = .refused w → requestPart (some r) s = .next { s with angRefusal := some w }

/-- R60, R61: the name under which a byte is offered has no effect: every operation that offers a byte does what the
byte's class does. The names are the model's (log entries 1 and 4). -/
def Obligations.ByteNamesHaveNoEffect : Prop :=
  (∀ (i : Instr) (s : State), offersByte i = true → exec i s = exec (decodeByte (encode i).bits) s) ∧
    ∀ (s : State) (c : ClockCycle) (rest : List ClockCycle) (n : ByteName),
      step { s with pending := c :: rest } = step { s with pending := { c with inName := n } :: rest }

/-- R260: U4's events are independent of the framer's: in one step the two operations can be taken in either order. -/
def Obligations.UnitsDoNotInteract : Prop :=
  ∀ (i j : Instr) (s t u : State), offersByte i = true ∨ i = .reset ∨ i = .idleStep → asksAngle j = true →
    exec i s = .next t → exec j s = .next u → ∃ v, exec j t = .next v ∧ exec i u = .next v

/-- R6, R29, R258, R260: from a state of R23 every step answers a next state, whatever is offered and asked in it, and the
framer's part of it is that of the same step without a U4 request. R69: a request of the reserved operation has no
outputs, and only U4 is touched by it. That the state keeps the reason of a refused request, and that a build without U4
refuses one, are the model's choices (log entries 10 and 12). -/
def Obligations.StepsNeverStopAndRequestsLeaveTheFramer : Prop :=
  ∀ s : State, FramerInv s → ∃ t u,
    step s = .next t ∧
      step { s with pending := { nextCycle s with angle := none } :: s.pending.tail } = .next u ∧
      t.st = u.st ∧ t.len = u.len ∧ t.buf = u.buf ∧ t.emission = u.emission ∧ t.rdData = u.rdData ∧
      t.draws = u.draws ∧ t.pending = u.pending ∧ u.angOut = none ∧ u.angRefusal = none ∧
      ((nextCycle s).angle = none → t = u) ∧
      ∀ r : AngleReq, (nextCycle s).angle = some r →
        (angleInstr r = .aopRsvd → t.angOut = none ∧ t.angRefusal = some .reservedAngleOp) ∧
        (angleInstr r ≠ .aopRsvd → s.config.hasAngle = false →
          t.angOut = none ∧ t.angRefusal = some .noAngleUnit) ∧
        (angleInstr r ≠ .aopRsvd → s.config.hasAngle = true → t.angOut ≠ none ∧ t.angRefusal = none)

/-- R8: no step changes the build parameters, and a build with `CAP = 0` or `F = 0` runs no step (the refusal is the model's,
log entry 6). -/
def Obligations.ParametersAreFixed : Prop :=
  (∀ s t : State, step s = .next t → t.config = s.config) ∧
    ∀ s : State, s.config.cap = 0 ∨ s.config.fracBits = 0 → step s = .refused .illegalParameters

/-- The host's placement of a table word (log entry 2): the next step runs the operation the word decodes to, beside an idle
framer where it is U4's. A refused operation of U4 is kept by its reason (log entry 10). -/
def Obligations.PlacedTableWordRunsNext : Prop :=
  ∀ (s : State) (nbits w : Nat) (i : Instr), s.config.legal = true → decodeTableWord nbits w = some i →
    (asksAngle i = false →
      step (s.withFetchWord nbits w) = exec i { s with rdData := none, angOut := none, angRefusal := none }) ∧
    ∀ u : State, asksAngle i = true →
      u =
        { s with
          angIn :=
            if (encode i).format = .hemi then { s.angIn with hemi := (encode i).bits } else s.angIn
          rdData := none, angOut := none, angRefusal := none, emission := none } →
      (∀ t, exec i u = .next t → step (s.withFetchWord nbits w) = .next t) ∧
        ∀ f, exec i u = .refused f → step (s.withFetchWord nbits w) = .next { u with angRefusal := some f }
end

