-- ==== Sys2Proof/Laws/State.lean ====
section
/-! SUPPORT. What each field of State is after each named update. -/

namespace Sys2Proof.Machine

@[simp] theorem quiet_config (s : State) : (quiet s).config = s.config := rfl
@[simp] theorem quiet_st (s : State) : (quiet s).st = s.st := rfl
@[simp] theorem quiet_len (s : State) : (quiet s).len = s.len := rfl
@[simp] theorem quiet_buf (s : State) : (quiet s).buf = s.buf := rfl
@[simp] theorem quiet_pending (s : State) : (quiet s).pending = s.pending := rfl
@[simp] theorem quiet_angIn (s : State) : (quiet s).angIn = s.angIn := rfl
@[simp] theorem quiet_emission (s : State) : (quiet s).emission = none := rfl
@[simp] theorem quiet_rdData (s : State) : (quiet s).rdData = s.rdData := rfl
@[simp] theorem quiet_angOut (s : State) : (quiet s).angOut = s.angOut := rfl
@[simp] theorem quiet_angRefusal (s : State) : (quiet s).angRefusal = s.angRefusal := rfl
@[simp] theorem quiet_draws (s : State) : (quiet s).draws = s.draws := rfl

@[simp] theorem toIdle_config (s : State) : (toIdle s).config = s.config := rfl
@[simp] theorem toIdle_st (s : State) : (toIdle s).st = .idle := rfl
@[simp] theorem toIdle_len (s : State) : (toIdle s).len = 0 := rfl
@[simp] theorem toIdle_buf (s : State) : (toIdle s).buf = s.buf := rfl
@[simp] theorem toIdle_pending (s : State) : (toIdle s).pending = s.pending := rfl
@[simp] theorem toIdle_angIn (s : State) : (toIdle s).angIn = s.angIn := rfl
@[simp] theorem toIdle_emission (s : State) : (toIdle s).emission = s.emission := rfl
@[simp] theorem toIdle_rdData (s : State) : (toIdle s).rdData = s.rdData := rfl
@[simp] theorem toIdle_angOut (s : State) : (toIdle s).angOut = s.angOut := rfl
@[simp] theorem toIdle_angRefusal (s : State) : (toIdle s).angRefusal = s.angRefusal := rfl
@[simp] theorem toIdle_draws (s : State) : (toIdle s).draws = s.draws := rfl

@[simp] theorem withByte_config (s : State) (i : Nat) (b : Byte) : (withByte s i b).config = s.config := rfl
@[simp] theorem withByte_st (s : State) (i : Nat) (b : Byte) : (withByte s i b).st = .payload := rfl
@[simp] theorem withByte_len (s : State) (i : Nat) (b : Byte) : (withByte s i b).len = i + 1 := rfl
@[simp] theorem withByte_buf (s : State) (i : Nat) (b : Byte) : (withByte s i b).buf = memWrite s.buf i b := rfl
@[simp] theorem withByte_pending (s : State) (i : Nat) (b : Byte) : (withByte s i b).pending = s.pending := rfl
@[simp] theorem withByte_angIn (s : State) (i : Nat) (b : Byte) : (withByte s i b).angIn = s.angIn := rfl
@[simp] theorem withByte_emission (s : State) (i : Nat) (b : Byte) : (withByte s i b).emission = s.emission := rfl
@[simp] theorem withByte_rdData (s : State) (i : Nat) (b : Byte) : (withByte s i b).rdData = s.rdData := rfl
@[simp] theorem withByte_angOut (s : State) (i : Nat) (b : Byte) : (withByte s i b).angOut = s.angOut := rfl
@[simp] theorem withByte_angRefusal (s : State) (i : Nat) (b : Byte) :
    (withByte s i b).angRefusal = s.angRefusal := rfl
@[simp] theorem withByte_draws (s : State) (i : Nat) (b : Byte) : (withByte s i b).draws = s.draws := rfl

@[simp] theorem withEmission_config (s : State) (e : Emission) (used : Nat) :
    (withEmission s e used).config = s.config := rfl
@[simp] theorem withEmission_st (s : State) (e : Emission) (used : Nat) : (withEmission s e used).st = s.st := rfl
@[simp] theorem withEmission_len (s : State) (e : Emission) (used : Nat) : (withEmission s e used).len = s.len := rfl
@[simp] theorem withEmission_buf (s : State) (e : Emission) (used : Nat) : (withEmission s e used).buf = s.buf := rfl
@[simp] theorem withEmission_pending (s : State) (e : Emission) (used : Nat) :
    (withEmission s e used).pending = s.pending := rfl
@[simp] theorem withEmission_angIn (s : State) (e : Emission) (used : Nat) :
    (withEmission s e used).angIn = s.angIn := rfl
@[simp] theorem withEmission_emission (s : State) (e : Emission) (used : Nat) :
    (withEmission s e used).emission = some e := rfl
@[simp] theorem withEmission_rdData (s : State) (e : Emission) (used : Nat) :
    (withEmission s e used).rdData = s.rdData := rfl
@[simp] theorem withEmission_angOut (s : State) (e : Emission) (used : Nat) :
    (withEmission s e used).angOut = s.angOut := rfl
@[simp] theorem withEmission_angRefusal (s : State) (e : Emission) (used : Nat) :
    (withEmission s e used).angRefusal = s.angRefusal := rfl
@[simp] theorem withEmission_draws (s : State) (e : Emission) (used : Nat) :
    (withEmission s e used).draws = s.draws + used := rfl

@[simp] theorem withAngOut_config (s : State) (o : AngleOut) : (withAngOut s o).config = s.config := rfl
@[simp] theorem withAngOut_st (s : State) (o : AngleOut) : (withAngOut s o).st = s.st := rfl
@[simp] theorem withAngOut_len (s : State) (o : AngleOut) : (withAngOut s o).len = s.len := rfl
@[simp] theorem withAngOut_buf (s : State) (o : AngleOut) : (withAngOut s o).buf = s.buf := rfl
@[simp] theorem withAngOut_pending (s : State) (o : AngleOut) : (withAngOut s o).pending = s.pending := rfl
@[simp] theorem withAngOut_angIn (s : State) (o : AngleOut) : (withAngOut s o).angIn = s.angIn := rfl
@[simp] theorem withAngOut_emission (s : State) (o : AngleOut) : (withAngOut s o).emission = s.emission := rfl
@[simp] theorem withAngOut_rdData (s : State) (o : AngleOut) : (withAngOut s o).rdData = s.rdData := rfl
@[simp] theorem withAngOut_angOut (s : State) (o : AngleOut) : (withAngOut s o).angOut = some o := rfl
@[simp] theorem withAngOut_angRefusal (s : State) (o : AngleOut) : (withAngOut s o).angRefusal = s.angRefusal := rfl
@[simp] theorem withAngOut_draws (s : State) (o : AngleOut) : (withAngOut s o).draws = s.draws := rfl

@[simp] theorem withAngRefusal_config (s : State) (w : Refusal) : (withAngRefusal s w).config = s.config := rfl
@[simp] theorem withAngRefusal_st (s : State) (w : Refusal) : (withAngRefusal s w).st = s.st := rfl
@[simp] theorem withAngRefusal_len (s : State) (w : Refusal) : (withAngRefusal s w).len = s.len := rfl
@[simp] theorem withAngRefusal_buf (s : State) (w : Refusal) : (withAngRefusal s w).buf = s.buf := rfl
@[simp] theorem withAngRefusal_pending (s : State) (w : Refusal) : (withAngRefusal s w).pending = s.pending := rfl
@[simp] theorem withAngRefusal_angIn (s : State) (w : Refusal) : (withAngRefusal s w).angIn = s.angIn := rfl
@[simp] theorem withAngRefusal_emission (s : State) (w : Refusal) : (withAngRefusal s w).emission = s.emission := rfl
@[simp] theorem withAngRefusal_rdData (s : State) (w : Refusal) : (withAngRefusal s w).rdData = s.rdData := rfl
@[simp] theorem withAngRefusal_angOut (s : State) (w : Refusal) : (withAngRefusal s w).angOut = s.angOut := rfl
@[simp] theorem withAngRefusal_angRefusal (s : State) (w : Refusal) : (withAngRefusal s w).angRefusal = some w := rfl
@[simp] theorem withAngRefusal_draws (s : State) (w : Refusal) : (withAngRefusal s w).draws = s.draws := rfl

@[simp] theorem beginCycle_config (s : State) : (beginCycle s).config = s.config := rfl
@[simp] theorem beginCycle_st (s : State) : (beginCycle s).st = s.st := rfl
@[simp] theorem beginCycle_len (s : State) : (beginCycle s).len = s.len := rfl
@[simp] theorem beginCycle_buf (s : State) : (beginCycle s).buf = s.buf := rfl
@[simp] theorem beginCycle_pending (s : State) : (beginCycle s).pending = s.pending.tail := rfl
@[simp] theorem beginCycle_angIn (s : State) :
    (beginCycle s).angIn = ((nextCycle s).angle.map (fun r => r.ports)).getD s.angIn := rfl
@[simp] theorem beginCycle_emission (s : State) : (beginCycle s).emission = s.emission := rfl
@[simp] theorem beginCycle_rdData (s : State) : (beginCycle s).rdData = (nextCycle s).rdAddr.map (readPort s) := rfl
@[simp] theorem beginCycle_angOut (s : State) : (beginCycle s).angOut = none := rfl
@[simp] theorem beginCycle_angRefusal (s : State) : (beginCycle s).angRefusal = none := rfl
@[simp] theorem beginCycle_draws (s : State) :
    (beginCycle s).draws = s.draws + ((nextCycle s).rdAddr.map (readDraws s)).getD 0 := rfl

/-- Clearing the emission twice is clearing it once. -/
@[simp] theorem quiet_quiet (s : State) : quiet (quiet s) = quiet s := rfl

end Sys2Proof.Machine
end

