-- ==== Sys2Proof/Laws/Angle.lean ====
section
/-! SUPPORT. Everything a U4 operation can do, said once. -/

namespace Sys2Proof.Machine

theorem driveAngle_present {s : State} (o : AngleOut) (h : s.config.hasAngle = true) :
    driveAngle o s = .next (withAngOut s o) := if_pos h

theorem driveAngle_next {s t : State} {o : AngleOut} (h : driveAngle o s = .next t) :
    s.config.hasAngle = true ∧ t = withAngOut s o := by
  unfold driveAngle at h
  split at h
  · rename_i ha
    exact ⟨ha, by cases h; rfl⟩
  · cases h

/-- R180: an operation of U4 but the reserved one drives outputs that depend on the build and on the operand ports only. -/
theorem exec_asksAngle {i : Instr} (h : asksAngle i = true) (hr : i ≠ .aopRsvd) :
    ∃ o : Config → AngleIn → AngleOut, ∀ s, exec i s = driveAngle (o s.config s.angIn) s := by
  cases i
  case deg2dmm =>
    exact ⟨fun c p => deg2dmmResult c.fracBits p.kind (degOperand c.fracBits p), fun _ => rfl⟩
  case dmm2dms => exact ⟨fun c p => dmm2dmsResult c.fracBits (dmOperand c.fracBits p), fun _ => rfl⟩
  case deg2dms =>
    exact ⟨fun c p => deg2dmsResult c.fracBits p.kind (degOperand c.fracBits p), fun _ => rfl⟩
  case dmm2deg =>
    exact ⟨fun c p => dmm2degResult c.fracBits p.kind p.neg p.wd.toNat (dmOperand c.fracBits p), fun _ => rfl⟩
  case dms2deg =>
    exact ⟨fun c p => dms2degResult c.fracBits p.kind p.neg p.wd.toNat p.wm.toNat (dsOperand c.fracBits p),
      fun _ => rfl⟩
  case hemi2sign => exact ⟨fun _ p => hemiResult p.hemi, fun _ => rfl⟩
  case rangechk =>
    exact ⟨fun c p => rangechkResult c.fracBits p.kind (degOperand c.fracBits p), fun _ => rfl⟩
  case aopRsvd => exact absurd rfl hr
  case data b => simp [asksAngle, encode] at h
  all_goals first
    | exact absurd h (by decide)
    | exact ⟨fun _ _ => hemiResult _, fun _ => rfl⟩

/-- R69: an operation of U4 drives its outputs and nothing else, or it is refused: the reserved one by that name, any other
only where U4 is absent. -/
theorem exec_asksAngle_answers {i : Instr} (h : asksAngle i = true) (s : State) :
    (i = .aopRsvd ∧ exec i s = .refused .reservedAngleOp) ∨
      (i ≠ .aopRsvd ∧ s.config.hasAngle = false ∧ exec i s = .refused .noAngleUnit) ∨
      (i ≠ .aopRsvd ∧ s.config.hasAngle = true ∧ ∃ o, exec i s = .next (withAngOut s o)) := by
  by_cases hr : i = .aopRsvd
  · exact .inl ⟨hr, hr ▸ rfl⟩
  · obtain ⟨o, ho⟩ := exec_asksAngle h hr
    cases ha : s.config.hasAngle
    · exact .inr (.inl ⟨hr, rfl, by simp [ho, driveAngle, ha]⟩)
    · exact .inr (.inr ⟨hr, rfl, _, (ho s).trans (driveAngle_present _ ha)⟩)

theorem whenInRange_in {frac : Nat} {k : Kind} {x : Int} (o : AngleOut) (h : inRange frac k x = true) :
    whenInRange frac k x o = o := if_pos h

theorem whenInRange_out {frac : Nat} {k : Kind} {x : Int} (o : AngleOut) (h : inRange frac k x = false) :
    whenInRange frac k x o = raiseAngle .rangeViolation := by
  simp [whenInRange, h]

/-- R181: the range check as the two closed bounds. -/
theorem inRange_iff {frac : Nat} {k : Kind} {x : Int} :
    inRange frac k x = true ↔ -(limit frac k : Int) ≤ x ∧ x ≤ (limit frac k : Int) := by
  simp [inRange]

end Sys2Proof.Machine
end

