-- ==== Sys2Proof/Laws/Checksum.lean ====
section
/-! SUPPORT. The XOR fold by its first byte. -/

namespace Sys2Proof.Machine

/-- The fold from any start value. -/
theorem foldl_xor (bs : List Byte) (acc : Byte) :
    bs.foldl (fun a b => a ^^^ b) acc = acc ^^^ xorFold bs := by
  induction bs generalizing acc with
  | nil => simp [xorFold]
  | cons b rest ih =>
    simp only [xorFold, List.foldl_cons, BitVec.zero_xor]
    rw [ih (acc ^^^ b), ih b, BitVec.xor_assoc]

@[simp] theorem xorFold_nil : xorFold [] = 0#8 := rfl

@[simp] theorem xorFold_cons (b : Byte) (bs : List Byte) : xorFold (b :: bs) = b ^^^ xorFold bs := by
  simp only [xorFold, List.foldl_cons, BitVec.zero_xor]
  rw [foldl_xor]
  rfl

/-- R130: a range inside the sequence is folded whole. -/
theorem checksum_whole (p : List Byte) : checksum p 0 p.length = xorFold p := by
  simp [checksum]

end Sys2Proof.Machine
end

