-- ==== Sys2Proof/Laws/Clock.lean ====
section
/-! SUPPORT. A step as its cycle's operations. -/

namespace Sys2Proof.Machine

theorem step_legal {s : State} (h : s.config.legal = true) : step s = runCycle s := if_pos h

/-- If a step answers a state, its build is legal and its cycle answered it. -/
theorem step_next {s t : State} (h : step s = .next t) : s.config.legal = true ∧ runCycle s = .next t := by
  have h' : guardedCycle s = .next t := h
  unfold guardedCycle at h'
  split at h'
  · exact ⟨‹_›, h'⟩
  · cases h'

/-- The cycle is the framer's operation, then the request's. -/
theorem runCycle_eq (s : State) :
    runCycle s =
      andThen (exec (framerInstr (nextCycle s)) (beginCycle s)) (requestPart (nextCycle s).angle) := rfl

/-- A letter decodes to an operation of U4. -/
theorem decode_hemi_asks : ∀ (b : Byte) (i : Instr), decode ⟨.hemi, b⟩ = .ok i → asksAngle i = true := by
  have key : ∀ b : Byte,
      (match decode ⟨.hemi, b⟩ with | .ok i => asksAngle i | .error _ => true) = true := by decide +kernel
  intro b i h
  simpa [h] using key b

/-- Every code of `ang_op` decodes to an operation of U4. -/
theorem decode_aop_asks : ∀ (c : BitVec 3) (i : Instr), decode ⟨.aop, c.setWidth 8⟩ = .ok i → asksAngle i = true := by
  have key : ∀ c : BitVec 3,
      (match decode ⟨.aop, c.setWidth 8⟩ with | .ok i => asksAngle i | .error _ => true) = true := by decide
  intro c i h
  simpa [h] using key c

/-- A request asks for an operation of U4. -/
theorem angleInstr_asks (r : AngleReq) : asksAngle (angleInstr r) = true := by
  unfold angleInstr
  split
  · rename_i i h
    unfold angleWord at h
    split at h
    · exact decode_aop_asks _ _ h
    · exact decode_hemi_asks _ _ h
  · rfl

/-- R6, R260: everything a request part can do: nothing where there is no request, else U4's outputs or the reason of the
refusal. It always answers a state, so it never undoes the framer's part. -/
theorem requestPart_answers (q : Option AngleReq) (s : State) :
    (q = none ∧ requestPart q s = .next s) ∨
      ∃ r, q = some r ∧
        ((angleInstr r = .aopRsvd ∧ requestPart q s = .next (withAngRefusal s .reservedAngleOp)) ∨
          (angleInstr r ≠ .aopRsvd ∧ s.config.hasAngle = false ∧
            requestPart q s = .next (withAngRefusal s .noAngleUnit)) ∨
          (angleInstr r ≠ .aopRsvd ∧ s.config.hasAngle = true ∧
            ∃ o, requestPart q s = .next (withAngOut s o))) := by
  cases q with
  | none => exact .inl ⟨rfl, rfl⟩
  | some r =>
    refine .inr ⟨r, rfl, ?_⟩
    rcases exec_asksAngle_answers (angleInstr_asks r) s with ⟨hr, he⟩ | ⟨hr, ha, he⟩ | ⟨hr, ha, o, he⟩
    · exact .inl ⟨hr, by rw [requestPart, he]; rfl⟩
    · exact .inr (.inl ⟨hr, ha, by rw [requestPart, he]; rfl⟩)
    · exact .inr (.inr ⟨hr, ha, o, by rw [requestPart, he]; rfl⟩)

/-- R260: the framer's state and outputs, and the free values, after the request part are those before it. -/
theorem requestPart_keeps {q : Option AngleReq} {s t : State} (h : requestPart q s = .next t) :
    t.config = s.config ∧ t.st = s.st ∧ t.len = s.len ∧ t.buf = s.buf ∧ t.pending = s.pending ∧
      t.angIn = s.angIn ∧ t.emission = s.emission ∧ t.rdData = s.rdData ∧ t.draws = s.draws := by
  rcases requestPart_answers q s with ⟨_, e⟩ | ⟨_, _, ⟨_, e⟩ | ⟨_, _, e⟩ | ⟨_, _, _, e⟩⟩ <;>
    · rw [e] at h
      cases h
      exact ⟨rfl, rfl, rfl, rfl, rfl, rfl, rfl, rfl, rfl⟩

end Sys2Proof.Machine
end

