-- ==== Sys2Proof/Laws/Decode.lean ====
section
/-! SUPPORT. What decoding gives on the formats whose every value has a row, and the classes of a byte. -/

namespace Sys2Proof

theorem classOf_sof {b : Byte} : classOf b = .sof ↔ b = asciiDollar := by
  unfold classOf
  split
  · simp_all
  · split <;> simp_all

theorem classOf_eof {b : Byte} : classOf b = .eof ↔ b = asciiLf := by
  unfold classOf
  split
  · rename_i h
    subst h
    decide
  · split <;> simp_all

theorem classOf_data {b : Byte} : classOf b = .data ↔ b ≠ asciiDollar ∧ b ≠ asciiLf := by
  unfold classOf
  split
  · simp_all
  · split <;> simp_all

@[simp] theorem classOf_dollar : classOf asciiDollar = .sof := by decide
@[simp] theorem classOf_lf : classOf asciiLf = .eof := by decide
@[simp] theorem classOf_cr : classOf asciiCr = .data := by decide
@[simp] theorem classOf_star : classOf asciiStar = .data := by decide

end Sys2Proof
end

