-- ==== Sys2Proof/Laws/Memory.lean ====
section
/-! SUPPORT. The laws of the frame buffer: read after write, every other byte kept, the canonical form kept. -/

namespace Sys2Proof.Machine

@[simp] theorem memRead_nil (i : Nat) : memRead [] i = none := rfl

/-- A read of the written index gives the written byte. -/
@[simp] theorem memRead_memWrite_same (m : List Host.Cell) (i : Nat) (v : Byte) :
    memRead (memWrite m i v) i = some v := by
  induction m with
  | nil => simp [memWrite, memRead]
  | cons c rest ih =>
    obtain ⟨j, b⟩ := c
    simp only [memWrite]
    split
    · simp [memRead]
    · split
      · simp [memRead]
      · rename_i _ h
        simp only [memRead, if_neg h, ih]

/-- R42: a write keeps every other byte. -/
theorem memRead_memWrite_other (m : List Host.Cell) {i a : Nat} (v : Byte) (h : a ≠ i) :
    memRead (memWrite m i v) a = memRead m a := by
  induction m with
  | nil => simp [memWrite, memRead, h]
  | cons c rest ih =>
    obtain ⟨j, b⟩ := c
    simp only [memWrite]
    split
    · simp [memRead, h]
    · split
      · rename_i _ hij
        subst hij
        simp [memRead, h]
      · simp only [memRead, ih]

/-- R42: both cases of a read after a write. -/
theorem memRead_memWrite (m : List Host.Cell) (i a : Nat) (v : Byte) :
    memRead (memWrite m i v) a = if a = i then some v else memRead m a := by
  split
  · rename_i h
    rw [h, memRead_memWrite_same]
  · rename_i h
    exact memRead_memWrite_other m v h

/-- A write adds no cell but its own. -/
theorem mem_memWrite {m : List Host.Cell} {i : Nat} {v : Byte} {c : Host.Cell} (h : c ∈ memWrite m i v) :
    c = (i, v) ∨ c ∈ m := by
  induction m with
  | nil => simpa [memWrite] using h
  | cons d rest ih =>
    obtain ⟨j, b⟩ := d
    simp only [memWrite] at h
    split at h
    · simpa using h
    · split at h
      · simp only [List.mem_cons] at h ⊢
        tauto
      · simp only [List.mem_cons] at h ⊢
        rcases h with h | h
        · tauto
        · have := ih h
          tauto

/-- The canonical form is kept by every write. -/
theorem memWf_memWrite {m : List Host.Cell} (h : memWf m) (i : Nat) (v : Byte) : memWf (memWrite m i v) := by
  induction m with
  | nil => simp [memWf, memWrite]
  | cons d rest ih =>
    obtain ⟨j, b⟩ := d
    have hh : (∀ c ∈ rest, j < c.1) ∧ memWf rest := List.pairwise_cons.mp h
    simp only [memWrite]
    split
    · rename_i hij
      refine List.pairwise_cons.mpr ⟨?_, h⟩
      intro c hc
      rcases List.mem_cons.mp hc with rfl | hc
      · exact hij
      · exact Nat.lt_trans hij (hh.1 c hc)
    · split
      · rename_i _ hij
        exact List.pairwise_cons.mpr ⟨fun c hc => hij ▸ hh.1 c hc, hh.2⟩
      · rename_i h1 h2
        refine List.pairwise_cons.mpr ⟨?_, ih hh.2⟩
        intro c hc
        rcases mem_memWrite hc with rfl | hc
        · simp only
          omega
        · exact hh.1 c hc

/-- A write below a bound keeps all indices below it. -/
theorem memWrite_below {m : List Host.Cell} {n i : Nat} (h : ∀ c ∈ m, c.1 < n) (hi : i < n) (v : Byte) :
    ∀ c ∈ memWrite m i v, c.1 < n := by
  intro c hc
  rcases mem_memWrite hc with rfl | hc
  · exact hi
  · exact h c hc

end Sys2Proof.Machine
end

