-- ==== Sys2Proof/Laws/Framer.lean ====
section
/-! SUPPORT. Everything a byte can do to the block, said once: the guard, the store, the emission, the step on a byte, and
which operations are a byte offered. -/

namespace Sys2Proof.Machine

theorem andThen_next {r : Result} {k : State → Result} {t : State} (h : andThen r k = .next t) :
    ∃ u, r = .next u ∧ k u = .next t := by
  cases r with
  | next u => exact ⟨u, rfl, h⟩
  | fault f => cases h
  | refused f => cases h

@[simp] theorem andThen_of_next (s : State) (k : State → Result) : andThen (.next s) k = k s := rfl

/-- The guard does nothing unless the buffer is full. -/
theorem guard_notFull {s : State} (h : ¬(s.st = .payload ∧ s.len = s.config.cap)) : bufferFullGuard s = s :=
  if_neg h

/-- R102: the guard fires. -/
theorem guard_full {s : State} (h : s.st = .payload ∧ s.len = s.config.cap) : bufferFullGuard s = toIdle s :=
  if_pos h

/-- What the guard keeps, whether it fires or not. -/
theorem guard_keeps (s : State) :
    (bufferFullGuard s).config = s.config ∧ (bufferFullGuard s).buf = s.buf ∧
      (bufferFullGuard s).pending = s.pending ∧ (bufferFullGuard s).angIn = s.angIn ∧
      (bufferFullGuard s).emission = s.emission ∧ (bufferFullGuard s).rdData = s.rdData ∧
      (bufferFullGuard s).angOut = s.angOut ∧ (bufferFullGuard s).draws = s.draws ∧
      (bufferFullGuard s).angRefusal = s.angRefusal := by
  unfold bufferFullGuard
  split <;> simp

theorem storeByte_next {i : Nat} {b : Byte} {s t : State} (h : storeByte i b s = .next t) :
    i < s.config.cap ∧ t = withByte s i b := by
  unfold storeByte at h
  split at h
  · rename_i hi
    exact ⟨hi, by cases h; rfl⟩
  · cases h

theorem storeByte_of_lt {i : Nat} {s : State} (b : Byte) (h : i < s.config.cap) :
    storeByte i b s = .next (withByte s i b) := if_pos h

/-- All the emission does besides the event: the framer is idle again. -/
theorem emitFrame_eq (s : State) :
    emitFrame s =
      { s with
        st := .idle, len := 0, draws := s.draws + drawsOf s s.len
        emission := some { frmLen := s.len, frame := frameBytes s s.len, verdict := validate (frameBytes s s.len) } } :=
  rfl

/-- R45: a frame whose bytes were all written is read as it stands, and takes no free value. -/
theorem frameBytes_written {s : State} {f : List Byte} (hcap : f.length ≤ s.config.cap)
    (h : ∀ i < f.length, memRead s.buf i = f[i]?) :
    frameBytes s f.length = f ∧ drawsOf s f.length = 0 := by
  have hd : ∀ i (hi : i < f.length), definedByte s i = some f[i] := by
    intro i hi
    rw [definedByte, if_pos (Nat.lt_of_lt_of_le hi hcap), h i hi, List.getElem?_eq_getElem hi]
  constructor
  · apply List.ext_getElem
    · simp [frameBytes]
    · intro i h1 h2
      simp [frameBytes, byteAt, hd i h2]
  · rw [drawsOf, if_pos]
    rw [List.all_eq_true]
    intro i hi
    rw [hd i (List.mem_range.mp hi)]
    rfl

/-- R100, said once: if a byte is taken, then with `g` the state after the guard one of four things happened. -/
theorem acceptByte_cases {b : Byte} {s t : State} (h : acceptByte b s = .next t) :
    ((bufferFullGuard (quiet s)).st = .idle ∧ classOf b ≠ .sof ∧ t = bufferFullGuard (quiet s)) ∨
    (classOf b = .sof ∧ 0 < s.config.cap ∧ t = withByte (bufferFullGuard (quiet s)) 0 b) ∨
    ((bufferFullGuard (quiet s)).st = .payload ∧ classOf b = .eof ∧
      (bufferFullGuard (quiet s)).len < s.config.cap ∧
      t = emitFrame (withByte (bufferFullGuard (quiet s)) (bufferFullGuard (quiet s)).len b)) ∨
    ((bufferFullGuard (quiet s)).st = .payload ∧ classOf b = .data ∧
      (bufferFullGuard (quiet s)).len < s.config.cap ∧
      t = withByte (bufferFullGuard (quiet s)) (bufferFullGuard (quiet s)).len b) := by
  have hc : (bufferFullGuard (quiet s)).config = s.config := (guard_keeps (quiet s)).1
  unfold acceptByte transition at h
  split at h
  · rename_i hs hb
    have h2 := storeByte_next h
    rw [hc] at h2
    exact .inr (.inl ⟨hb, h2.1, h2.2⟩)
  · rename_i hs hb
    exact .inl ⟨hs, by simp [hb], by cases h; rfl⟩
  · rename_i hs hb
    exact .inl ⟨hs, by simp [hb], by cases h; rfl⟩
  · rename_i hs hb
    have h2 := storeByte_next h
    rw [hc] at h2
    exact .inr (.inl ⟨hb, h2.1, h2.2⟩)
  · rename_i hs hb
    obtain ⟨u, hu, ht⟩ := andThen_next h
    have h2 := storeByte_next hu
    rw [hc] at h2
    cases ht
    exact .inr (.inr (.inl ⟨hs, hb, h2.1, by rw [h2.2]⟩))
  · rename_i hs hb
    have h2 := storeByte_next h
    rw [hc] at h2
    exact .inr (.inr (.inr ⟨hs, hb, h2.1, h2.2⟩))

/-- R100, forward: what the step on a byte answers, by the state after the guard. -/
theorem acceptByte_sof {b : Byte} {s : State} (hb : classOf b = .sof) (hcap : 0 < s.config.cap) :
    acceptByte b s = .next (withByte (bufferFullGuard (quiet s)) 0 b) := by
  have hc : 0 < (bufferFullGuard (quiet s)).config.cap := by
    rw [(guard_keeps (quiet s)).1]
    exact hcap
  unfold acceptByte transition
  rw [hb]
  cases (bufferFullGuard (quiet s)).st <;> exact storeByte_of_lt b hc

theorem acceptByte_idle {b : Byte} {s : State} (hb : classOf b ≠ .sof)
    (hs : (bufferFullGuard (quiet s)).st = .idle) :
    acceptByte b s = .next (bufferFullGuard (quiet s)) := by
  unfold acceptByte transition
  rw [hs]
  cases h : classOf b with
  | sof => exact absurd h hb
  | eof => rfl
  | data => rfl

theorem acceptByte_data {b : Byte} {s : State} (hb : classOf b = .data) (hs : s.st = .payload)
    (hlen : s.len < s.config.cap) :
    acceptByte b s = .next (withByte (quiet s) s.len b) := by
  have hg : bufferFullGuard (quiet s) = quiet s := guard_notFull (by
    intro h
    exact absurd h.2 (Nat.ne_of_lt hlen))
  unfold acceptByte transition
  rw [hg, hb]
  simp only [quiet_st, hs, quiet_len]
  exact storeByte_of_lt b hlen

theorem acceptByte_eof {b : Byte} {s : State} (hb : classOf b = .eof) (hs : s.st = .payload)
    (hlen : s.len < s.config.cap) :
    acceptByte b s = .next (emitFrame (withByte (quiet s) s.len b)) := by
  have hg : bufferFullGuard (quiet s) = quiet s := guard_notFull (by
    intro h
    exact absurd h.2 (Nat.ne_of_lt hlen))
  unfold acceptByte transition
  rw [hg, hb]
  simp only [quiet_st, hs, quiet_len]
  rw [storeByte_of_lt b (s := quiet s) hlen, andThen_of_next]

/-- R260 (b): the guard and a resynchronization cannot both apply. -/
theorem not_resyncs_of_overflows {b : Byte} {s : State} (h : overflows s = true) : resyncs b s = false := by
  simp [resyncs, h]

/-- R254: a resynchronization is the restart of R105: the byte is taken at index 0 and nothing is emitted. -/
theorem acceptByte_of_resyncs {b : Byte} {s : State} (h : resyncs b s = true) (hcap : 0 < s.config.cap) :
    acceptByte b s = .next (withByte (quiet s) 0 b) := by
  simp only [resyncs, overflows, Bool.and_eq_true, Bool.not_eq_true', Bool.and_eq_false_iff,
    decide_eq_true_eq, decide_eq_false_iff_not] at h
  obtain ⟨⟨hs, hn⟩, hb⟩ := h
  have hg : bufferFullGuard (quiet s) = quiet s := guard_notFull (by
    rintro ⟨_, hl⟩
    rcases hn with hn | hn
    · exact hn hs
    · exact hn hl)
  rw [acceptByte_sof hb hcap, hg]

/-- R60, R66: executing an operation of the formats `BYTE`, `MARK` and `HEXCH` is offering its byte. -/
theorem exec_offersByte {i : Instr} (h : offersByte i = true) (s : State) :
    exec i s = acceptByte (encode i).bits s := by
  cases i <;> first | rfl | exact absurd h (by decide)

end Sys2Proof.Machine
end

