-- ==== Sys2Proof/Laws/PerInstr.lean ====
section
/-! SUPPORT. The family `EncodingFits`: an operation's encoding has no bit above the width of its format. -/

namespace Sys2Proof.Laws.EncodingFits

/-- The encoding of an operation fits the width of its format (R66). -/
def Statement (i : Instr) : Prop := (encode i).bits.toNat < 2 ^ (encode i).format.width

theorem reset : Statement .reset := by
  unfold Statement
  decide
theorem idleStep : Statement .idleStep := by
  unfold Statement
  decide
theorem sof : Statement .sof := by
  unfold Statement
  decide
theorem eof : Statement .eof := by
  unfold Statement
  decide
theorem data (b : Byte) : Statement (.data b) := b.isLt
theorem mDollar : Statement .mDollar := by
  unfold Statement
  decide
theorem mCr : Statement .mCr := by
  unfold Statement
  decide
theorem mLf : Statement .mLf := by
  unfold Statement
  decide
theorem mStar : Statement .mStar := by
  unfold Statement
  decide
theorem hex0 : Statement .hex0 := by
  unfold Statement
  decide
theorem hex1 : Statement .hex1 := by
  unfold Statement
  decide
theorem hex2 : Statement .hex2 := by
  unfold Statement
  decide
theorem hex3 : Statement .hex3 := by
  unfold Statement
  decide
theorem hex4 : Statement .hex4 := by
  unfold Statement
  decide
theorem hex5 : Statement .hex5 := by
  unfold Statement
  decide
theorem hex6 : Statement .hex6 := by
  unfold Statement
  decide
theorem hex7 : Statement .hex7 := by
  unfold Statement
  decide
theorem hex8 : Statement .hex8 := by
  unfold Statement
  decide
theorem hex9 : Statement .hex9 := by
  unfold Statement
  decide
theorem hexUpperA : Statement .hexUpperA := by
  unfold Statement
  decide
theorem hexUpperB : Statement .hexUpperB := by
  unfold Statement
  decide
theorem hexUpperC : Statement .hexUpperC := by
  unfold Statement
  decide
theorem hexUpperD : Statement .hexUpperD := by
  unfold Statement
  decide
theorem hexUpperE : Statement .hexUpperE := by
  unfold Statement
  decide
theorem hexUpperF : Statement .hexUpperF := by
  unfold Statement
  decide
theorem hexLowerA : Statement .hexLowerA := by
  unfold Statement
  decide
theorem hexLowerB : Statement .hexLowerB := by
  unfold Statement
  decide
theorem hexLowerC : Statement .hexLowerC := by
  unfold Statement
  decide
theorem hexLowerD : Statement .hexLowerD := by
  unfold Statement
  decide
theorem hexLowerE : Statement .hexLowerE := by
  unfold Statement
  decide
theorem hexLowerF : Statement .hexLowerF := by
  unfold Statement
  decide
theorem hemiUpperN : Statement .hemiUpperN := by
  unfold Statement
  decide
theorem hemiLowerN : Statement .hemiLowerN := by
  unfold Statement
  decide
theorem hemiUpperE : Statement .hemiUpperE := by
  unfold Statement
  decide
theorem hemiLowerE : Statement .hemiLowerE := by
  unfold Statement
  decide
theorem hemiUpperS : Statement .hemiUpperS := by
  unfold Statement
  decide
theorem hemiLowerS : Statement .hemiLowerS := by
  unfold Statement
  decide
theorem hemiUpperW : Statement .hemiUpperW := by
  unfold Statement
  decide
theorem hemiLowerW : Statement .hemiLowerW := by
  unfold Statement
  decide
theorem deg2dmm : Statement .deg2dmm := by
  unfold Statement
  decide
theorem dmm2dms : Statement .dmm2dms := by
  unfold Statement
  decide
theorem deg2dms : Statement .deg2dms := by
  unfold Statement
  decide
theorem dmm2deg : Statement .dmm2deg := by
  unfold Statement
  decide
theorem dms2deg : Statement .dms2deg := by
  unfold Statement
  decide
theorem hemi2sign : Statement .hemi2sign := by
  unfold Statement
  decide
theorem rangechk : Statement .rangechk := by
  unfold Statement
  decide
theorem aopRsvd : Statement .aopRsvd := by
  unfold Statement
  decide

end Sys2Proof.Laws.EncodingFits
end

