-- ==== Sys2Proof/Tests/Slice0.lean ====
section
/-! SUPPORT. Tests on words and vectors of the spec (30_encoding.md R61, R66; 95_test_vectors.md), and a witness for the
hypotheses of each statement. -/

namespace Sys2Proof.Tests

open Sys2Proof.Machine

/-- The decoder reads the operation from the word. -/
def decodesTo (f : Format) (b : Byte) (i : Instr) : Bool :=
  match decode ⟨f, b⟩ with
  | .ok j => decide (j = i)
  | .error _ => false

/-- The decoder rejects the word by that name. -/
def rejects (f : Format) (b : Byte) (e : DecodeReject) : Bool :=
  match decode ⟨f, b⟩ with
  | .ok _ => false
  | .error r => decide (r = e)

/-- The operation answers a state with the property. -/
def answers (r : Result) (p : State → Bool) : Bool :=
  match r with
  | .next t => p t
  | .fault _ => false
  | .refused _ => false

/-- Characters as bytes. -/
def ascii (t : String) : List Byte := t.toList.map (fun c => BitVec.ofNat 8 c.toNat)

/-! ## WellFormed -/

theorem test_wellFormed_refuses_dollar_as_data : Instr.wellFormed (.data 0x24#8) = false := by decide
theorem test_wellFormed_refuses_lf_as_data : Instr.wellFormed (.data 0x0A#8) = false := by decide
theorem test_wellFormed_takes_cr_as_data : Instr.wellFormed (.data 0x0D#8) = true := by decide
theorem test_config_refuses_no_buffer : Config.legal ⟨0, true, 32⟩ = false := by decide
theorem test_config_refuses_no_fraction : Config.legal ⟨1024, true, 0⟩ = false := by decide

/-! ## Decoding: every constructor by a word written out from R61 and R66 -/

/-- R66: `rst = 1`, and neither `rst` nor `in_valid`. -/
theorem test_decode_ctrl :
    ([ (0b00000001#8, .reset), (0b00000000#8, .idleStep) ] : List (Byte × Instr)).all
      (fun w => decodesTo .ctrl w.1 w.2) = true := by decide

/-- R61. -/
theorem test_decode_framing_bytes :
    ([ (0b00100100#8, .sof), (0b00001010#8, .eof) ] : List (Byte × Instr)).all
      (fun w => decodesTo .byte w.1 w.2) = true := by decide

/-- R61: the first and the last value of each of the twelve `DATA` blocks. -/
theorem test_decode_data_blocks :
    ([ 0x00#8, 0x07#8, 0x08#8, 0x09#8, 0x0B#8, 0x0C#8, 0x0F#8, 0x10#8, 0x1F#8, 0x20#8, 0x23#8,
       0x25#8, 0x26#8, 0x27#8, 0x28#8, 0x2F#8, 0x30#8, 0x3F#8, 0x40#8, 0x7F#8, 0x80#8, 0xFF#8 ] : List Byte).all
      (fun b => decodesTo .byte b (.data b)) = true := by decide

/-- R66. -/
theorem test_decode_markers :
    ([ (0b00100100#8, .mDollar), (0b00001101#8, .mCr), (0b00001010#8, .mLf), (0b00101010#8, .mStar) ] : List (Byte × Instr)).all
      (fun w => decodesTo .mark w.1 w.2) = true := by decide

/-- R66. -/
theorem test_decode_hex_digits :
    ([ (0b00110000#8, .hex0), (0b00110001#8, .hex1), (0b00110010#8, .hex2), (0b00110011#8, .hex3),
      (0b00110100#8, .hex4), (0b00110101#8, .hex5), (0b00110110#8, .hex6), (0b00110111#8, .hex7),
      (0b00111000#8, .hex8), (0b00111001#8, .hex9) ] : List (Byte × Instr)).all
      (fun w => decodesTo .hexch w.1 w.2) = true := by decide

/-- R66. -/
theorem test_decode_hex_upper :
    ([ (0b01000001#8, .hexUpperA), (0b01000010#8, .hexUpperB), (0b01000011#8, .hexUpperC), (0b01000100#8, .hexUpperD),
      (0b01000101#8, .hexUpperE), (0b01000110#8, .hexUpperF) ] : List (Byte × Instr)).all
      (fun w => decodesTo .hexch w.1 w.2) = true := by decide

/-- R66. -/
theorem test_decode_hex_lower :
    ([ (0b01100001#8, .hexLowerA), (0b01100010#8, .hexLowerB), (0b01100011#8, .hexLowerC), (0b01100100#8, .hexLowerD),
      (0b01100101#8, .hexLowerE), (0b01100110#8, .hexLowerF) ] : List (Byte × Instr)).all
      (fun w => decodesTo .hexch w.1 w.2) = true := by decide

/-- R66. -/
theorem test_decode_hemisphere :
    ([ (0b01001110#8, .hemiUpperN), (0b01101110#8, .hemiLowerN), (0b01000101#8, .hemiUpperE), (0b01100101#8, .hemiLowerE),
      (0b01010011#8, .hemiUpperS), (0b01110011#8, .hemiLowerS), (0b01010111#8, .hemiUpperW), (0b01110111#8, .hemiLowerW) ] : List (Byte × Instr)).all
      (fun w => decodesTo .hemi w.1 w.2) = true := by decide

/-- R66, R69. -/
theorem test_decode_angle_codes :
    ([ (0b00000000#8, .deg2dmm), (0b00000001#8, .dmm2dms), (0b00000010#8, .deg2dms), (0b00000011#8, .dmm2deg),
      (0b00000100#8, .dms2deg), (0b00000101#8, .hemi2sign), (0b00000110#8, .rangechk), (0b00000111#8, .aopRsvd) ] : List (Byte × Instr)).all
      (fun w => decodesTo .aop w.1 w.2) = true := by decide

/-- R68, R69: what has no row is rejected by name. -/
theorem test_decode_rejects :
    (rejects .mark 0x2C#8 .notAMarker && rejects .hexch 0x47#8 .notAHexCharacter &&
      rejects .hexch 0x3A#8 .notAHexCharacter && rejects .hexch 0x60#8 .notAHexCharacter &&
      rejects .hemi 0x58#8 .notAHemisphereLetter && rejects .aop 0x08#8 (.widerThanFormat .aop) &&
      rejects .ctrl 0x02#8 (.widerThanFormat .ctrl)) = true := by decide

/-- spec/opcode_table.json has 58 rows. -/
theorem test_opcode_rows : opcodeRows.length = 58 := by decide

/-- The host's table words: narrow rows by their width, else the row that fixes every bit, else a `DATA` block. -/
theorem test_decodeTableWord :
    (decodeTableWord 1 1 = some .reset ∧ decodeTableWord 3 6 = some .rangechk ∧
      decodeTableWord 8 0x24 = some .sof ∧ decodeTableWord 8 0x2A = some .mStar ∧
      decodeTableWord 8 0x66 = some .hexLowerF ∧ decodeTableWord 8 0x57 = some .hemiUpperW ∧
      decodeTableWord 8 0x80 = some (.data 0x80#8) ∧ decodeTableWord 8 0x05 = some .hemi2sign) := by
  decide

/-! ## U1: 95_test_vectors.md, section 2 -/

/-- A state of a build with capacity `cap` and 8 fraction bits, in `PAYLOAD` with these bytes. -/
def inFrame (cap : Nat) (f : List Byte) : State :=
  { State.resetOf ⟨cap, true, 8⟩ with
    st := .payload, len := f.length, buf := (List.range f.length).zip f }

/-- The framer's registers of an answer. -/
def at_ (st : FramerState) (len : Nat) (t : State) : Bool := decide (t.st = st) && decide (t.len = len)

theorem test_F1_sof_in_idle :
    answers (exec .sof State.reset)
      (fun t => at_ .payload 1 t && decide (memRead t.buf 0 = some 0x24#8) && decide (t.emission = none)) = true := by
  decide

theorem test_F3_eof_in_idle :
    answers (exec .eof State.reset) (fun t => at_ .idle 0 t && decide (t.emission = none)) = true := by
  decide

theorem test_F6_data_in_idle :
    answers (exec (.data 0xFF#8) State.reset) (fun t => at_ .idle 0 t && decide (t.buf = [])) = true := by
  decide

theorem test_F7_data_in_payload :
    answers (exec (.data 0x47#8) (inFrame 1024 [0x24#8]))
      (fun t => at_ .payload 2 t && decide (memRead t.buf 1 = some 0x47#8)) = true := by decide

theorem test_F8_cr_is_data :
    answers (exec .mCr (inFrame 1024 (ascii "$A*41")))
      (fun t => at_ .payload 6 t && decide (memRead t.buf 5 = some 0x0D#8)) = true := by decide

theorem test_F9_emission :
    answers (exec .eof (inFrame 1024 (ascii "$A*41\r")))
      (fun t => at_ .idle 0 t && decide (memRead t.buf 6 = some 0x0A#8) &&
        decide (t.emission =
          some ⟨7, ascii "$A*41\r\n", ⟨.ok, 0#4, 0x41#8, 0x34#8, 0x31#8, 1⟩⟩)) = true := by decide

theorem test_F10_resynchronization :
    answers (exec .mDollar (inFrame 1024 (ascii "$GPGGA,garbage")))
      (fun t => at_ .payload 1 t && decide (memRead t.buf 13 = some 0x65#8)) = true := by decide

theorem test_F11_shortest_frame :
    answers (exec .mLf (inFrame 1024 [0x24#8]))
      (fun t => at_ .idle 0 t &&
        decide (t.emission = some ⟨2, [0x24#8, 0x0A#8], ⟨.dropped, 0b1101#4, 0, 0, 0, 0⟩⟩)) = true := by
  decide

theorem test_F13_guard_discards :
    answers (exec (.data 0x48#8) (inFrame 8 (ascii "$ABCDEFG")))
      (fun t => at_ .idle 0 t && decide (t.emission = none)) = true := by decide

theorem test_F14_guard_loses_the_frame :
    answers (exec .eof (inFrame 8 (ascii "$ABCDEFG")))
      (fun t => at_ .idle 0 t && decide (t.emission = none)) = true := by decide

theorem test_F15_guard_then_start :
    answers (exec .sof (inFrame 8 (ascii "$ABCDEFG"))) (fun t => at_ .payload 1 t) = true := by decide

theorem test_F16_frame_of_capacity :
    answers (exec .eof (inFrame 8 (ascii "$*00XX\r")))
      (fun t => decide (t.emission =
        some ⟨8, ascii "$*00XX\r\n", ⟨.dropped, 0b1000#4, 0, 0, 0, 0⟩⟩)) = true := by decide

theorem test_F18_idle_step :
    answers (exec .idleStep (inFrame 8 (ascii "$GPH"))) (fun t => at_ .payload 4 t) = true := by decide

theorem test_F19_reset :
    answers (exec .reset (inFrame 8 (ascii "$GPH")))
      (fun t => at_ .idle 0 t && decide (memRead t.buf 3 = some 0x48#8)) = true := by decide

/-! ## U2 and U3: 95_test_vectors.md, sections 1, 3 and 4 -/

theorem test_K5_star_in_range : checksum (ascii "A*B") 0 3 = 0x29#8 := by decide
theorem test_K6_clamped : checksum (ascii "abc") 1 100 = 0x01#8 := by decide
theorem test_K8_start_past_end : checksum (ascii "abc") 5 1 = 0x00#8 := by decide
theorem test_K11_source_sample : checksum (ascii "GPHDT,75.5664,T") 0 15 = 0x36#8 := by decide
theorem test_K13_hex2 :
    (hex2 0x0A#8 = (0x30#8, 0x41#8) ∧ hex2 0xF0#8 = (0x46#8, 0x30#8)) := by decide
theorem test_K15_hexval_neighbours :
    [0x47#8, 0x67#8, 0x2F#8, 0x3A#8, 0x40#8, 0x60#8, 0x00#8, 0xFF#8].all (fun c => decide (hexval c = none)) = true := by
  decide
theorem test_K17_digit_order : csumMatch 0x2B#8 0x42#8 0x32#8 = false := by decide
theorem test_K20_wrap : wrap (ascii "A") = [0x24#8, 0x41#8, 0x2A#8, 0x34#8, 0x31#8, 0x0D#8, 0x0A#8] := by decide

theorem test_V1_source_sample :
    validate (ascii "$GPGGA,092750.000,5321.6802,N,00630.3372,W,1,8,1.03,61.7,M,55.2,M,,*76\r\n") =
      ⟨.ok, 0#4, 0x76#8, 0x37#8, 0x36#8, 66⟩ := by decide
theorem test_W4_lower_case :
    validate ([0x24#8, 0xFF#8, 0x0F#8] ++ ascii "*f0\r\n") = ⟨.ok, 0#4, 0xF0#8, 0x66#8, 0x30#8, 2⟩ := by decide
theorem test_W6_not_hex : validate (ascii "$A*4G\r\n") = ⟨.csumFail, 0#4, 0x41#8, 0x34#8, 0x47#8, 1⟩ := by
  decide
theorem test_W7_star_in_payload : validate (ascii "$A*B*41\r\n") = ⟨.csumFail, 0#4, 0x29#8, 0x34#8, 0x31#8, 3⟩ := by
  decide
theorem test_W10_bare_lf : (validate (ascii "$GPHDT,75.5664,T*36\n")).reason = 0b1100#4 := by decide
theorem test_W15_five_bytes : (validate (ascii "$*\r\r\n")).reason = 0b1000#4 := by decide
theorem test_W18_three_bytes : (validate (ascii "$\r\n")).reason = 0b1001#4 := by decide
theorem test_W21_empty : validate [] = ⟨.dropped, 0b1111#4, 0, 0, 0, 0⟩ := by decide

/-! ## U4: 95_test_vectors.md, section 5 -/

/-- A request's state: a build with `F` fraction bits and these operand ports. -/
def withPorts (frac : Nat) (p : AngleIn) : State := { State.resetOf ⟨1024, true, frac⟩ with angIn := p }

/-- U4's outputs of an answer. -/
def drives (r : Result) (o : AngleOut) : Bool := answers r (fun t => decide (t.angOut = some o))

theorem test_A3_deg2dmm :
    drives (exec .deg2dmm (withPorts 8 { AngleIn.zero with kind := .lon, deg := 0x1F97F }))
      { AngleOut.zero with neg := true, wd := 6, dm := 0x1E3C } = true := by decide
theorem test_A5_deg2dmm_small :
    drives (exec .deg2dmm (withPorts 8 { AngleIn.zero with deg := 0x1FFFF }))
      { AngleOut.zero with neg := true, dm := 0x003C } = true := by decide
theorem test_A4_dmm2dms :
    drives (exec .dmm2dms (withPorts 8 { AngleIn.zero with dm := 0x1E3C }))
      { AngleOut.zero with wm := 30, ds := 0x0E10 } = true := by decide
theorem test_A7_deg2dms :
    drives (exec .deg2dms (withPorts 8 { AngleIn.zero with deg := 0x0355D }))
      { AngleOut.zero with wd := 53, wm := 21, ds := 0x2FD0 } = true := by decide
theorem test_A26_deg2dms_default :
    drives (exec .deg2dms (withPorts 32 { AngleIn.zero with kind := .lon, deg := 0x1F97E900000 }))
      { AngleOut.zero with neg := true, wd := 6, wm := 30, ds := 0x1437000000 } = true := by decide
theorem test_A17_dmm2deg_out_of_range :
    drives (exec .dmm2deg (withPorts 8 { AngleIn.zero with wd := 89, dm := 0x3C3C }))
      { AngleOut.zero with errRange := true } = true := by decide
theorem test_A8_dmm2deg :
    drives (exec .dmm2deg (withPorts 8 { AngleIn.zero with wd := 53, dm := 0x15CC }))
      { AngleOut.zero with deg := 0x0355D } = true := by decide
theorem test_A20_dms2deg :
    drives (exec .dms2deg (withPorts 8 { AngleIn.zero with wd := 53, wm := 21, ds := 0x2880 }))
      { AngleOut.zero with deg := 0x0355C } = true := by decide
theorem test_A15_rangechk :
    (drives (exec .rangechk (withPorts 8 { AngleIn.zero with deg := 0x1A600 }))
        { AngleOut.zero with deg := 0x1A600 } &&
      drives (exec .rangechk (withPorts 8 { AngleIn.zero with deg := 0x1A5FF }))
        { AngleOut.zero with errRange := true }) = true := by decide
theorem test_A22_hemi_n : drives (exec .hemiLowerN State.reset) AngleOut.zero = true := by decide
theorem test_A23_hemi_w :
    drives (exec .hemiUpperW State.reset) { AngleOut.zero with neg := true } = true := by decide
theorem test_A24_hemi2sign_error :
    drives (exec .hemi2sign (withPorts 8 { AngleIn.zero with hemi := 0x58 }))
      { AngleOut.zero with errFormat := true } = true := by decide

/-! ## The step -/

/-- R260: a byte and a request of one cycle both take effect. -/
theorem test_step_byte_and_request :
    answers
      (step { State.reset with
        pending := [{ offerByte 0x24#8 with angle := some ⟨.op 5#3, { AngleIn.zero with hemi := 0x53 }⟩ }] })
      (fun t => at_ .payload 1 t && decide (t.angOut = some { AngleOut.zero with neg := true })) = true := by
  decide

/-- R6, R69: a byte is accepted beside a request of the reserved operation. -/
theorem test_step_byte_and_reserved_request :
    answers (step { State.reset with pending := [{ offerByte 0x24#8 with angle := some ⟨.op 7#3, AngleIn.zero⟩ }] })
      (fun t => at_ .payload 1 t && decide (memRead t.buf 0 = some 0x24#8) && decide (t.angOut = none) &&
        decide (t.angRefusal = some .reservedAngleOp)) = true := by decide

/-- R280: a reset beside it takes effect. -/
theorem test_step_reset_and_reserved_request :
    answers
      (step { inFrame 8 (ascii "$AB") with
        pending := [{ ClockCycle.idle with rst := true, angle := some ⟨.op 7#3, AngleIn.zero⟩ }] })
      (fun t => at_ .idle 0 t) = true := by decide

/-- R43: `rd_data` shows the byte before the write of the same step. -/
theorem test_step_read_port :
    answers (step { inFrame 8 (ascii "$AB") with pending := [{ offerByte 0x24#8 with rdAddr := some 2 }] })
      (fun t => decide (t.rdData = some 0x42#8) && at_ .payload 1 t) = true := by decide

/-- R280: with `rst = 1` the byte offered is ignored. -/
theorem test_step_reset_ignores_the_byte :
    answers (step { inFrame 8 (ascii "$AB") with pending := [{ offerByte 0x0A#8 with rst := true }] })
      (fun t => at_ .idle 0 t && decide (t.emission = none)) = true := by decide

/-- A byte named as what it is not is taken by its class. -/
theorem test_step_wrong_name :
    answers (step { inFrame 8 (ascii "$A*") with pending := [{ offerByte 0x47#8 with inName := .byHex }] })
      (fun t => at_ .payload 4 t) = true := by decide

/-- The host's placement of table words. -/
theorem test_withFetchWord :
    (answers (step (State.reset.withFetchWord 8 0x24)) (fun t => at_ .payload 1 t) &&
      drives (step (State.reset.withFetchWord 3 0)) AngleOut.zero &&
      drives (step (State.reset.withFetchWord 8 0x73)) { AngleOut.zero with neg := true }) = true := by
  decide


/-! ## Witnesses: a state and operands that meet each statement's hypotheses together -/

/-- A frame in progress, `$AB`, in a build of capacity 8. -/
abbrev sAB : State := inFrame 8 (ascii "$AB")

/-- A full buffer. -/
abbrev sFull : State := inFrame 8 (ascii "$ABCDEFG")

/-- The last free index is the next. -/
abbrev sLast : State := inFrame 8 (ascii "$ABCDEF")

/-- The build of capacity 1, full after its `$`. -/
abbrev sOne : State := inFrame 1 [0x24#8]

theorem sAB_inv : FramerInv sAB := by decide
theorem sFull_inv : FramerInv sFull := by decide
theorem sLast_inv : FramerInv sLast := by decide
theorem sOne_inv : FramerInv sOne := by decide
theorem reset_inv : FramerInv State.reset := by decide

theorem witness_DecodeOfEncodeGivesTheOperation :
    Instr.wellFormed (.data 0x23#8) = true ∧ Instr.wellFormed .aopRsvd = true := by decide

theorem witness_DecodedOperationEncodesToItsWord :
    ∃ i, decode ⟨.hexch, 0x39#8⟩ = .ok i := ⟨.hex9, rfl⟩

theorem witness_HexvalByRanges :
    (0x30 ≤ (0x39#8).toNat ∧ (0x39#8).toNat ≤ 0x39) ∧ (0x41 ≤ (0x41#8).toNat ∧ (0x41#8).toNat ≤ 0x46) ∧
      (0x61 ≤ (0x66#8).toNat ∧ (0x66#8).toNat ≤ 0x66) ∧
      (¬(0x30 ≤ (0x3A#8).toNat ∧ (0x3A#8).toNat ≤ 0x39) ∧ ¬(0x41 ≤ (0x3A#8).toNat ∧ (0x3A#8).toNat ≤ 0x46) ∧
        ¬(0x61 ≤ (0x3A#8).toNat ∧ (0x3A#8).toNat ≤ 0x66)) := by decide

theorem witness_PortCodesAndWidths : 1 ≤ (Config.mk 1 true 1).cap := by decide

/-- A cycle that asks for the reserved operation beside a byte and a reset. -/
abbrev cRsvd : ClockCycle :=
  { offerByte 0x41#8 with rst := true, angle := some ⟨.op 7#3, AngleIn.zero⟩ }

theorem witness_ResetReturnsTheFramerToIdle :
    sAB.config.legal = true ∧ ({ sAB with pending := [cRsvd] } : State).pending = cRsvd :: [] ∧ cRsvd.rst = true := by
  decide

theorem witness_IdleStepKeepsTheFramer :
    sAB.config.legal = true ∧ ({ sAB with pending := [ClockCycle.idle] } : State).pending = ClockCycle.idle :: [] ∧
      ClockCycle.idle.rst = false ∧ ClockCycle.idle.inValid = false := by decide

theorem witness_DollarStartsAFrame : 1 ≤ State.reset.config.cap ∧ State.reset.st = .idle := by decide

theorem witness_BytesOutsideAFrameAreDiscarded :
    (offersByte .eof = true ∧ (encode .eof).bits ≠ 0x24#8) ∧
      (offersByte .hexLowerF = true ∧ (encode .hexLowerF).bits ≠ 0x24#8) ∧ State.reset.st = .idle := by decide

theorem witness_DollarRestartsTheFrame : 1 ≤ sAB.config.cap ∧ sAB.st = .payload := by decide

theorem witness_FullBufferLosesTheFrameSilently :
    (1 ≤ sFull.config.cap ∧ sFull.st = .payload ∧ sFull.len = sFull.config.cap) ∧
      (1 ≤ sOne.config.cap ∧ sOne.st = .payload ∧ sOne.len = sOne.config.cap) ∧
      (offersByte .mLf = true ∧ (encode .mLf).bits ≠ 0x24#8) ∧
      (offersByte .sof = true ∧ (encode .sof).bits = 0x24#8) := by decide

theorem witness_DataByteIsAppended :
    offersByte .mStar = true ∧ (encode .mStar).bits ≠ 0x24#8 ∧ (encode .mStar).bits ≠ 0x0A#8 ∧
      sLast.st = .payload ∧ sLast.len < sLast.config.cap := by decide

theorem witness_LineFeedEmitsTheFrame :
    sLast.st = .payload ∧ sLast.len < sLast.config.cap ∧ (ascii "$ABCDEF").length = sLast.len ∧
      ∀ k < sLast.len, memRead sLast.buf k = (ascii "$ABCDEF")[k]? := by decide

theorem witness_ByteOperationFrame : offersByte .hex0 = true ∧ ∃ t, exec .hex0 sAB = .next t := ⟨by decide, _, rfl⟩

theorem witness_EveryByteIsAccepted : offersByte .eof = true ∧ FramerInv sFull := by decide

theorem witness_StepKeepsTheFramerInvariants : FramerInv State.reset ∧ ∃ t, step State.reset = .next t :=
  ⟨by decide, _, rfl⟩

theorem witness_ResetMeetsTheFramerInvariants : Config.legal ⟨1, false, 1⟩ = true := by decide

/-- A step that emits, for the statements about emissions. -/
theorem witness_emission :
    FramerInv { sAB with pending := [offerByte 0x0A#8] } ∧
      answers (step { sAB with pending := [offerByte 0x0A#8] }) (fun t => t.emission.isSome) = true := by decide

theorem witness_EmittedFramesAreFramed :
    ∃ t e, step { sAB with pending := [offerByte 0x0A#8] } = .next t ∧ t.emission = some e := ⟨_, _, rfl, rfl⟩

theorem witness_ViewIsCompleteAfterTheEmission :
    FramerInv { sAB with pending := [offerByte 0x0A#8] } ∧
      ∃ t e, step { sAB with pending := [offerByte 0x0A#8] } = .next t ∧ t.emission = some e :=
  ⟨by decide, _, _, rfl, rfl⟩

theorem witness_WholeSentenceGivesOneEmission :
    FramerInv sFull ∧ (∀ b ∈ ascii "ABCDEF", b ≠ 0x24#8 ∧ b ≠ 0x0A#8) ∧
      (ascii "ABCDEF").length + 2 ≤ sFull.config.cap := by decide

theorem witness_NoLineFeedNoEmission : FramerInv sAB ∧ ∀ b ∈ ascii "$x\r", b ≠ 0x0A#8 := by decide

theorem witness_NoBytesPreventALaterSentence :
    FramerInv sAB ∧ (∀ b ∈ ascii "*00\r", b ≠ 0x24#8 ∧ b ≠ 0x0A#8) ∧
      (ascii "*00\r").length + 2 ≤ sAB.config.cap := by decide

theorem witness_IdleStepsBetweenBytesChangeNothing :
    FramerInv sAB ∧
      ∀ c ∈ [ClockCycle.idle, { offerByte 0x0A#8 with angle := some ⟨.op 7#3, AngleIn.zero⟩ }, ClockCycle.idle],
        c.rst = false := by decide

theorem witness_WrappedPayloadIsAccepted :
    FramerInv sFull ∧ (∀ b ∈ ascii "GN", b ≠ 0x24#8 ∧ b ≠ 0x0A#8) ∧ (ascii "GN").length + 6 ≤ sFull.config.cap := by decide

theorem witness_MarkersAndDigitsCloseASentence :
    FramerInv sAB ∧ sAB.st = .payload ∧ sAB.len = (ascii "AB").length + 1 ∧
      (∀ k < (ascii "AB").length, memRead sAB.buf (k + 1) = (ascii "AB")[k]?) ∧ sAB.len + 5 ≤ sAB.config.cap ∧
      (encode .hex0).format = .hexch ∧ (encode .hex3).format = .hexch ∧ hexval (encode .hex0).bits = some 0 ∧
      hexval (encode .hex3).bits = some 3 := by decide

theorem witness_StepWritesAtMostOneByte : ∃ t, step { sAB with pending := [offerByte 0x41#8] } = .next t := ⟨_, rfl⟩

theorem witness_ViewLastsUntilTheNextDollar :
    State.reset.st = .idle ∧ ViewHolds { State.reset with buf := (List.range 2).zip (ascii "$\n") } (ascii "$\n") ∧
      acceptsDollar (nextCycle State.reset) = false ∧
      ∃ t, step { State.reset with buf := (List.range 2).zip (ascii "$\n") } = .next t :=
  ⟨by decide, by decide, by decide, _, rfl⟩

theorem witness_ReadPortShowsTheStartOfTheStep :
    FramerInv sAB ∧
      ({ sAB with pending := [{ offerByte 0x41#8 with rdAddr := some 2 }] } : State).pending =
        { offerByte 0x41#8 with rdAddr := some 2 } :: [] ∧
      ({ offerByte 0x41#8 with rdAddr := some 2 } : ClockCycle).rdAddr = some 2 ∧ 2 < 2 ^ addrWidth sAB.config ∧
      memRead sAB.buf 2 = some 0x42#8 ∧ 2 < sAB.config.cap ∧ memRead sAB.buf 7 = none := by decide

/-- R43: an address of `CAP` or more can be presented when `CAP` is not a power of two. -/
theorem witness_read_beyond_capacity :
    FramerInv (inFrame 5 (ascii "$A")) ∧ 5 < 2 ^ addrWidth (inFrame 5 (ascii "$A")).config ∧
      (inFrame 5 (ascii "$A")).config.cap ≤ 5 := by decide

theorem witness_LeftoverBytesCannotAffectTheVerdict :
    FramerInv sAB ∧ FramerInv { sFull with len := 3 } ∧ sAB.config = sFull.config ∧ sAB.st = .payload ∧
      sFull.st = .payload ∧ sAB.len = 3 ∧ sAB.len < sAB.config.cap ∧
      ∀ k < sAB.len, memRead sAB.buf k = memRead sFull.buf k := by decide

theorem witness_ChecksumOfARange :
    (ascii "abc").length ≤ 3 ∧ (ascii "abc").length - 1 ≤ 100 ∧ 2 < (ascii "abc").length := by decide

theorem witness_ChecksumOfAConcatenation : (ascii "AB").Perm (ascii "BA") := by decide

theorem witness_ChecksumSeesEverySingleByteChange : (0x34#8 : Byte) ≠ 0x35#8 := by decide

theorem witness_AnyFailedCheckDropsTheFrame :
    (validate (ascii "$A*4\r\n")).reason ≠ 0 ∧ (ascii "$*\r\r\n").length = 5 := by decide

theorem witness_PassingFramesHaveTheWireFormat : (validate (ascii "$*00\r\n")).reason = 0 := by decide

/-- 53.5 degrees, with `F` = 8. -/
abbrev sAngle : State := withPorts 8 { AngleIn.zero with deg := 0x03580, wd := 53, dm := 0x1E00, wm := 30 }

/-- Exactly 90 degrees, the closed limit of `LAT`. -/
abbrev sLimit : State := withPorts 8 { AngleIn.zero with deg := 0x05A00, wd := 89, dm := 0x3C00, wm := 60 }

/-- Beyond the limit in every form. -/
abbrev sBeyond : State := withPorts 8 { AngleIn.zero with deg := 0x05A01, wd := 89, dm := 0x3C3C, wm := 60, ds := 3600 }

theorem witness_DegreesToMinutes :
    (sAngle.config.hasAngle = true ∧
      inRange sAngle.config.fracBits sAngle.angIn.kind (degOperand sAngle.config.fracBits sAngle.angIn) = true) ∧
    (sLimit.config.hasAngle = true ∧
      inRange sLimit.config.fracBits sLimit.angIn.kind (degOperand sLimit.config.fracBits sLimit.angIn) = true) := by
  decide

theorem witness_MinutesToDegrees :
    sLimit.config.hasAngle = true ∧
      (90 * 256 : Int) = (if sLimit.angIn.neg = true then -1 else 1) *
        ((sLimit.angIn.wd.toNat * 2 ^ sLimit.config.fracBits +
          sLimit.angIn.dm % 2 ^ (7 + sLimit.config.fracBits) / 60 : Nat) : Int) ∧
      inRange sLimit.config.fracBits sLimit.angIn.kind (90 * 256) = true := by decide

theorem witness_SecondsToDegrees :
    sLimit.config.hasAngle = true ∧
      (90 * 256 : Int) = (if sLimit.angIn.neg = true then -1 else 1) *
        ((sLimit.angIn.wd.toNat * 2 ^ sLimit.config.fracBits +
          (sLimit.angIn.wm.toNat * 60 * 2 ^ sLimit.config.fracBits +
            sLimit.angIn.ds % 2 ^ (7 + sLimit.config.fracBits)) / 3600 : Nat) : Int) ∧
      inRange sLimit.config.fracBits sLimit.angIn.kind (90 * 256) = true := by decide

theorem witness_HemisphereLetterToSign :
    State.reset.config.hasAngle = true ∧ (0x65#8 : Byte) ∈ [0x4E#8, 0x6E#8, 0x45#8, 0x65#8] ∧
      (0x77#8 : Byte) ∈ [0x53#8, 0x73#8, 0x57#8, 0x77#8] ∧
      (0x4D#8 : Byte) ∉ [0x4E#8, 0x6E#8, 0x45#8, 0x65#8, 0x53#8, 0x73#8, 0x57#8, 0x77#8] := by decide

theorem witness_HemisphereOperations :
    (withPorts 8 { AngleIn.zero with hemi := 0x53 }).config.hasAngle = true ∧ (encode .hemiUpperS).format = .hemi ∧
      (withPorts 8 { AngleIn.zero with hemi := 0x53 }).angIn.hemi = (encode .hemiUpperS).bits ∧
      ∃ t, exec .hemiUpperS (withPorts 8 { AngleIn.zero with hemi := 0x53 }) = .next t :=
  ⟨by decide, by decide, by decide, _, rfl⟩

theorem witness_OutOfRangeDeliversNoValue :
    sBeyond.config.hasAngle = true ∧
      (limit sBeyond.config.fracBits sBeyond.angIn.kind : Int) < degOperand sBeyond.config.fracBits sBeyond.angIn ∧
      limit sBeyond.config.fracBits sBeyond.angIn.kind <
        sBeyond.angIn.wd.toNat * 2 ^ sBeyond.config.fracBits +
          sBeyond.angIn.dm % 2 ^ (7 + sBeyond.config.fracBits) / 60 ∧
      limit sBeyond.config.fracBits sBeyond.angIn.kind <
        sBeyond.angIn.wd.toNat * 2 ^ sBeyond.config.fracBits +
          (sBeyond.angIn.wm.toNat * 60 * 2 ^ sBeyond.config.fracBits +
            sBeyond.angIn.ds % 2 ^ (7 + sBeyond.config.fracBits)) / 3600 := by decide

/-- The lower limit: -90 degrees less one unit. -/
theorem witness_below_the_lower_limit :
    degOperand 8 { AngleIn.zero with deg := 0x1A5FF } < -(limit 8 .lat : Int) := by decide

theorem witness_AngleRoundTripIsExact : 60 * 256 - 1 < 60 * 2 ^ 8 := by decide

theorem witness_AngleOperationsAreFunctionsOfTheirPorts :
    asksAngle .deg2dmm = true ∧ (∃ t, exec .deg2dmm sAngle = .next t) ∧
      ∃ v, exec .deg2dmm { sAngle with len := 7 } = .next v := ⟨by decide, ⟨_, rfl⟩, _, rfl⟩

theorem witness_WithoutAngleUnitNoAngleOperation :
    asksAngle .hemiLowerE = true ∧ Instr.hemiLowerE ≠ .aopRsvd ∧
      (State.resetOf ⟨8, false, 8⟩).config.hasAngle = false := by decide

theorem witness_StepRunsTheDecodedOperation :
    sAB.config.legal = true ∧ ({ sAB with pending := [offerByte 0x0A#8] } : State).pending = offerByte 0x0A#8 :: [] ∧
      (offerByte 0x0A#8).rst = false ∧ (offerByte 0x0A#8).inValid = true ∧ (offerByte 0x0A#8).inName = .byClass ∧
      decodesTo (nameFormat .byHex) 0x41#8 .hexUpperA = true ∧
      decodesTo .aop (angleWord ⟨.op 3#3, AngleIn.zero⟩).bits .dmm2deg = true ∧ State.reset.pending = [] := by decide

theorem witness_UnitsDoNotInteract :
    offersByte .eof = true ∧ asksAngle .rangechk = true ∧ (∃ t, exec .eof sAB = .next t) ∧
      ∃ u, exec .rangechk sAB = .next u := ⟨by decide, by decide, ⟨_, rfl⟩, _, rfl⟩

theorem witness_StepsNeverStopAndRequestsLeaveTheFramer :
    FramerInv { sAB with pending := [{ cRsvd with rst := false }] } ∧
      angleInstr ⟨.op 7#3, AngleIn.zero⟩ = .aopRsvd ∧ angleInstr ⟨.op 0#3, AngleIn.zero⟩ ≠ .aopRsvd ∧
      FramerInv (State.resetOf ⟨8, false, 8⟩) ∧ (State.resetOf ⟨8, false, 8⟩).config.hasAngle = false ∧
      (State.resetOf ⟨8, true, 8⟩).config.hasAngle = true := by decide

theorem witness_ParametersAreFixed :
    (∃ t, step State.reset = .next t) ∧ (State.resetOf ⟨0, true, 8⟩).config.cap = 0 ∧
      (State.resetOf ⟨8, true, 0⟩).config.fracBits = 0 := ⟨⟨_, rfl⟩, by decide, by decide⟩

theorem witness_PlacedTableWordRunsNext :
    State.reset.config.legal = true ∧ decodeTableWord 8 0x2A = some .mStar ∧ asksAngle .mStar = false ∧
      decodeTableWord 8 0x4E = some .hemiUpperN ∧ asksAngle .hemiUpperN = true := by decide

/-- The one fault: a write past `CAP`, from a state outside R23. -/
theorem test_write_past_capacity_faults :
    exec (.data 0x41#8) { sFull with len := 9 } = .fault (.noSuchIndex 9) := rfl

/-- R69. -/
theorem test_reserved_operation_is_refused : exec .aopRsvd State.reset = .refused .reservedAngleOp := rfl

end Sys2Proof.Tests
end

/-! SUPPORT. The statements of 00_scope.md: widths and codes, the build, and what a step is. -/

namespace Sys2Proof.Machine

/-! ### Widths -/

/-- `ceil(log2 n)` of R8 is Mathlib's upper logarithm. -/
theorem ceilLog2_eq_clog (n : Nat) : ceilLog2 n = Nat.clog 2 n := by
  unfold ceilLog2
  split
  · rename_i h
    exact (Nat.clog_of_right_le_one h 2).symm
  · have lower : 2 ^ Nat.log2 (n - 1) ≤ n - 1 := Nat.log2_self_le (by omega)
    have upper : n - 1 < 2 ^ (Nat.log2 (n - 1) + 1) := Nat.lt_log2_self
    apply le_antisymm
    · exact (Nat.lt_clog_iff_pow_lt Nat.one_lt_two).mpr (by omega)
    · exact (Nat.clog_le_iff_le_pow Nat.one_lt_two).mpr (by omega)

theorem lt_two_pow_lenWidth (c : Config) : c.cap < 2 ^ lenWidth c := by
  rw [lenWidth, ceilLog2_eq_clog]
  exact Nat.le_pow_clog (by decide) (c.cap + 1)

/-- One bit less than `LEN_W` does not hold `CAP`. -/
theorem two_pow_lenWidth_sub_one_le {c : Config} (h : 1 ≤ c.cap) : 2 ^ (lenWidth c - 1) ≤ c.cap := by
  rw [lenWidth, ceilLog2_eq_clog]
  exact Nat.le_of_lt_succ (Nat.pow_pred_clog_lt_self (by decide) (by omega))

theorem cap_le_two_pow_addrWidth (c : Config) : c.cap ≤ 2 ^ addrWidth c := by
  calc c.cap ≤ 2 ^ ceilLog2 c.cap := by
        rw [ceilLog2_eq_clog]
        exact Nat.le_pow_clog (by decide) c.cap
    _ ≤ 2 ^ addrWidth c := Nat.pow_le_pow_right (by decide) (Nat.le_max_right 1 _)

/-- R70: code 3 is never produced. -/
theorem statusCode_ne_three (v : Status) : statusCode v ≠ 3 := by
  cases v <;> decide

/-! ### Formats and operations -/

/-- R66: every row of the map gives an operation of the row's own format. -/
theorem format_of_mem_opcodeRows : ∀ r ∈ opcodeRows, ∀ b : Byte, (encode (r.instr b)).format = r.format := by
  simp [opcodeRows, exactRows, ctrlRows, frameByteRows, dataRows, markRows, hexDigitRows, hexUpperRows, hexLowerRows,
    hemiRows, aopRows, encode]

/-- R66: a value decodes to an operation of the place at which it stands. -/
theorem format_of_decode {w : TableWord} {i : Instr} (h : decode w = .ok i) : (encode i).format = w.format := by
  unfold decode at h
  split at h
  · cases h
  · split at h
    · rename_i r hr
      cases h
      have hf := List.find?_some hr
      simp only [Bool.and_eq_true, decide_eq_true_eq] at hf
      rw [format_of_mem_opcodeRows r (List.mem_of_find?_eq_some hr), hf.1]
    · cases h

theorem offersByte_iff {i : Instr} :
    offersByte i = true ↔ (encode i).format = .byte ∨ (encode i).format = .mark ∨ (encode i).format = .hexch := by
  simp [offersByte, or_assoc]

theorem offersByte_decodeByte (b : Byte) : offersByte (decodeByte b) = true := by
  unfold decodeByte
  cases classOf b <;> rfl

/-- R61, R66: every value offered on the ingestion port has a row, and it is that of its class. -/
theorem decode_byte : ∀ b : Byte, decode ⟨.byte, b⟩ = .ok (decodeByte b) := by
  decide +kernel

theorem offersByte_of_decode {n : ByteName} {b : Byte} {i : Instr} (h : decode ⟨nameFormat n, b⟩ = .ok i) :
    offersByte i = true := by
  rw [offersByte_iff, format_of_decode h]
  cases n <;> simp [nameFormat]

/-! ### The operations of the framer -/

/-- The operations of the framer: a byte offered, `RESET` and `IDLE_STEP`. -/
def IsFramerOp (i : Instr) : Prop := offersByte i = true ∨ i = .reset ∨ i = .idleStep

/-- R66: every operation is the framer's or U4's. -/
theorem isFramerOp_or_asksAngle (i : Instr) : IsFramerOp i ∨ asksAngle i = true := by
  cases h : (encode i).format with
  | ctrl => cases i <;> simp_all [encode, IsFramerOp]
  | byte | mark | hexch => exact .inl (.inl (by simp [offersByte_iff, h]))
  | hemi | aop => exact .inr (by simp [asksAngle, h])

/-- R31: other values on U4's operand ports. -/
def withAngIn (p : AngleIn) (s : State) : State := { s with angIn := p }

@[simp] theorem withAngIn_config (p : AngleIn) (s : State) : (withAngIn p s).config = s.config := rfl
@[simp] theorem withAngIn_st (p : AngleIn) (s : State) : (withAngIn p s).st = s.st := rfl
@[simp] theorem withAngIn_len (p : AngleIn) (s : State) : (withAngIn p s).len = s.len := rfl

@[simp] theorem guard_withAngIn (p : AngleIn) (s : State) :
    bufferFullGuard (withAngIn p s) = withAngIn p (bufferFullGuard s) := by
  by_cases h : s.st = .payload ∧ s.len = s.config.cap
  · rw [guard_full h, guard_full (s := withAngIn p s) h]
    rfl
  · rw [guard_notFull h, guard_notFull (s := withAngIn p s) h]

@[simp] theorem storeByte_withAngIn (p : AngleIn) (i : Nat) (b : Byte) (s : State) :
    storeByte i b (withAngIn p s) = andThen (storeByte i b s) (fun t => .next (withAngIn p t)) := by
  by_cases h : i < s.config.cap
  · rw [storeByte_of_lt b h, storeByte_of_lt (s := withAngIn p s) b h]
    rfl
  · simp [storeByte, h, andThen]

/-- Neither the store nor the emission reads a port of U4. -/
theorem transition_withAngIn (p : AngleIn) (b : Byte) (s : State) :
    transition b (withAngIn p s) = andThen (transition b s) (fun t => .next (withAngIn p t)) := by
  unfold transition
  rw [withAngIn_st]
  cases s.st <;> cases classOf b
  case idle.eof | idle.data => rfl
  case idle.sof | payload.sof | payload.data => exact storeByte_withAngIn p _ b s
  case payload.eof =>
    simp only [withAngIn_len, storeByte_withAngIn]
    cases storeByte s.len b s <;> rfl

/-- R260: what a byte does is the same whatever stands on U4's operand ports. -/
theorem acceptByte_withAngIn (p : AngleIn) (b : Byte) (s : State) :
    acceptByte b (withAngIn p s) = andThen (acceptByte b s) (fun t => .next (withAngIn p t)) := by
  have hq : quiet (withAngIn p s) = withAngIn p (quiet s) := rfl
  rw [acceptByte, hq, guard_withAngIn, transition_withAngIn, acceptByte]

/-- R100: a byte changes nothing but `st`, `len`, `buf`, the emission and the free values. -/
theorem acceptByte_keeps {b : Byte} {s t : State} (h : acceptByte b s = .next t) :
    t.config = s.config ∧ t.pending = s.pending ∧ t.angIn = s.angIn ∧ t.rdData = s.rdData ∧ t.angOut = s.angOut ∧
      t.angRefusal = s.angRefusal := by
  obtain ⟨hc, -, hp, hi, -, hr, ho, -, hf⟩ := guard_keeps (quiet s)
  rcases acceptByte_cases h with ⟨-, -, rfl⟩ | ⟨-, -, rfl⟩ | ⟨-, -, -, rfl⟩ | ⟨-, -, -, rfl⟩ <;>
    exact ⟨hc, hp, hi, hr, ho, hf⟩

/-- R29: a byte is taken in every state whose frame fits the buffer. -/
theorem acceptByte_answers {s : State} (b : Byte) (hcap : 0 < s.config.cap)
    (hlen : s.st = .payload → s.len ≤ s.config.cap) : ∃ t, acceptByte b s = .next t := by
  by_cases hb : classOf b = .sof
  · exact ⟨_, acceptByte_sof hb hcap⟩
  by_cases hfull : s.st = .payload ∧ s.len = s.config.cap
  · exact ⟨_, acceptByte_idle hb (by rw [guard_full (s := quiet s) hfull, toIdle_st])⟩
  cases hs : s.st with
  | idle => exact ⟨_, acceptByte_idle hb (by rw [guard_notFull (s := quiet s) hfull, quiet_st, hs])⟩
  | payload =>
    have hlt : s.len < s.config.cap := lt_of_le_of_ne (hlen hs) (fun h => hfull ⟨hs, h⟩)
    cases hk : classOf b with
    | sof => exact absurd hk hb
    | eof => exact ⟨_, acceptByte_eof hk hs hlt⟩
    | data => exact ⟨_, acceptByte_data hk hs hlt⟩

theorem exec_withAngIn {i : Instr} (h : IsFramerOp i) (p : AngleIn) (s : State) :
    exec i (withAngIn p s) = andThen (exec i s) (fun t => .next (withAngIn p t)) := by
  rcases h with h | rfl | rfl
  · rw [exec_offersByte h, exec_offersByte h, acceptByte_withAngIn]
  · rfl
  · rfl

/-- R260: the framer's operations leave the build, the inputs to come, the read port and U4 alone. -/
theorem exec_framerOp_keeps {i : Instr} {s t : State} (hi : IsFramerOp i) (h : exec i s = .next t) :
    t.config = s.config ∧ t.pending = s.pending ∧ t.angIn = s.angIn ∧ t.rdData = s.rdData ∧ t.angOut = s.angOut ∧
      t.angRefusal = s.angRefusal := by
  rcases hi with hi | rfl | rfl
  · exact acceptByte_keeps ((exec_offersByte hi s).symm.trans h)
  · cases h
    exact ⟨rfl, rfl, rfl, rfl, rfl, rfl⟩
  · cases h
    exact ⟨rfl, rfl, rfl, rfl, rfl, rfl⟩

theorem exec_framerOp_answers {i : Instr} {s : State} (hi : IsFramerOp i) (hcap : 0 < s.config.cap)
    (hlen : s.st = .payload → s.len ≤ s.config.cap) : ∃ t, exec i s = .next t := by
  rcases hi with hi | rfl | rfl
  · obtain ⟨t, ht⟩ := acceptByte_answers (encode i).bits hcap hlen
    exact ⟨t, (exec_offersByte hi s).trans ht⟩
  · exact ⟨_, rfl⟩
  · exact ⟨_, rfl⟩

/-- R8: no operation changes the build parameters. -/
theorem exec_config {i : Instr} {s t : State} (h : exec i s = .next t) : t.config = s.config := by
  rcases isFramerOp_or_asksAngle i with hi | hi
  · exact (exec_framerOp_keeps hi h).1
  · rcases exec_asksAngle_answers hi s with ⟨-, e⟩ | ⟨-, -, e⟩ | ⟨-, -, o, e⟩ <;> rw [e] at h <;> cases h
    rfl

/-! ### The operation of a cycle -/

theorem framerInstr_of_decode {c : ClockCycle} {i : Instr} (h : decode (framerWord c) = .ok i) : framerInstr c = i := by
  simp [framerInstr, h]

theorem framerInstr_of_rst {c : ClockCycle} (h : c.rst = true) : framerInstr c = .reset :=
  framerInstr_of_decode (by rw [framerWord, if_pos h]; rfl)

theorem framerInstr_of_no_byte {c : ClockCycle} (hr : c.rst = false) (hv : c.inValid = false) :
    framerInstr c = .idleStep :=
  framerInstr_of_decode (by
    have hw : framerWord c = ⟨.ctrl, 0⟩ := by simp [framerWord, hr, hv]
    rw [hw]
    rfl)

theorem framerWord_of_byte {c : ClockCycle} (hr : c.rst = false) (hv : c.inValid = true) :
    framerWord c = ⟨nameFormat c.inName, c.inData⟩ := by
  simp [framerWord, hr, hv]

/-- R6: the framer's inputs of a cycle decode to an operation of the framer. -/
theorem isFramerOp_framerInstr (c : ClockCycle) : IsFramerOp (framerInstr c) := by
  cases hr : c.rst with
  | true => exact .inr (.inl (framerInstr_of_rst hr))
  | false =>
    cases hv : c.inValid with
    | false => exact .inr (.inr (framerInstr_of_no_byte hr hv))
    | true =>
      left
      unfold framerInstr
      rw [framerWord_of_byte hr hv]
      split
      · rename_i h
        exact offersByte_of_decode h
      · exact offersByte_decodeByte c.inData

theorem angleInstr_of_decode {r : AngleReq} {i : Instr} (h : decode (angleWord r) = .ok i) : angleInstr r = i := by
  simp [angleInstr, h]

/-- R190: a request whose letter has no row is left to `HEMI2SIGN`. -/
theorem angleInstr_of_no_row {r : AngleReq} (h : ∀ i, decode (angleWord r) ≠ .ok i) : angleInstr r = .hemi2sign := by
  unfold angleInstr
  split
  · rename_i i hi
    exact absurd hi (h i)
  · rfl

theorem beginCycle_cons {s : State} {c : ClockCycle} {rest : List ClockCycle} (h : s.pending = c :: rest) :
    nextCycle s = c ∧
    beginCycle s =
      { s with
        pending := rest
        rdData := c.rdAddr.map (readPort s)
        draws := s.draws + (c.rdAddr.map (readDraws s)).getD 0
        angIn := (c.angle.map (fun r => r.ports)).getD s.angIn
        angOut := none
        angRefusal := none } := by
  simp [beginCycle, nextCycle, h]

/-- With nothing pending a cycle takes the inputs of `ClockCycle.idle`. -/
theorem nextCycle_nil {s : State} (h : s.pending = []) : nextCycle s = ClockCycle.idle := by
  simp [nextCycle, h]

theorem step_nil {s : State} (hl : s.config.legal = true) (h : s.pending = []) :
    step s =
      exec .idleStep
        { s with pending := [], rdData := none, draws := s.draws, angOut := none, angRefusal := none } := by
  have hb : beginCycle s =
      { s with pending := [], rdData := none, draws := s.draws, angOut := none, angRefusal := none } := by
    simp [beginCycle, nextCycle_nil h, h, ClockCycle.idle]
  rw [step_legal hl, runCycle_eq, hb, nextCycle_nil h, framerInstr_of_no_byte rfl rfl]
  rfl

/-! ### A step beside the same step without its request -/

/-- The state whose next step is that of `s` without its request of U4. -/
def withoutRequest (s : State) : State :=
  { s with pending := { nextCycle s with angle := none } :: s.pending.tail }

/-- Without its request a cycle begins as it does with it, but for U4's operand ports. -/
theorem beginCycle_withoutRequest (s : State) :
    beginCycle (withoutRequest s) = withAngIn s.angIn (beginCycle s) := rfl

/-- R6: a step that the framer's operation answers is the request part from there. -/
theorem step_of_exec {s v : State} (hl : s.config.legal = true)
    (hv : exec (framerInstr (nextCycle s)) (beginCycle s) = .next v) :
    step s = requestPart (nextCycle s).angle v := by
  rw [step_legal hl, runCycle_eq, hv, andThen_of_next]

/-- R260: the step without the request ends where the framer's operation does, U4's operand ports kept. -/
theorem step_withoutRequest {s v : State} (hl : s.config.legal = true)
    (hv : exec (framerInstr (nextCycle s)) (beginCycle s) = .next v) :
    step (withoutRequest s) = .next (withAngIn s.angIn v) := by
  have hframer : framerInstr (nextCycle (withoutRequest s)) = framerInstr (nextCycle s) := rfl
  apply step_of_exec (s := withoutRequest s) hl
  rw [hframer, beginCycle_withoutRequest, exec_withAngIn (isFramerOp_framerInstr _), hv, andThen_of_next]

/-- R29: from a state of R23 the framer's operation of the next cycle answers a state. -/
theorem exec_framerInstr_answers {s : State} (h : FramerInv s) :
    ∃ v, exec (framerInstr (nextCycle s)) (beginCycle s) = .next v := by
  obtain ⟨hl, -, -, hframe⟩ := h
  have hcap : 0 < s.config.cap := by
    simp only [Config.legal, Bool.and_eq_true, decide_eq_true_eq] at hl
    exact hl.1
  exact exec_framerOp_answers (isFramerOp_framerInstr _) hcap (fun hs => (hframe hs).2.1)

theorem requestPart_next (q : Option AngleReq) (s : State) : ∃ t, requestPart q s = .next t := by
  rcases requestPart_answers q s with ⟨-, e⟩ | ⟨_, -, ⟨-, e⟩ | ⟨-, -, e⟩ | ⟨-, -, _, e⟩⟩ <;> exact ⟨_, e⟩

/-- R69: U4's outputs and refusal after a request, by the operation and the build. -/
theorem requestPart_outputs {r : AngleReq} {v t : State} (h : requestPart (some r) v = .next t)
    (ho : v.angOut = none) (hf : v.angRefusal = none) :
    (angleInstr r = .aopRsvd → t.angOut = none ∧ t.angRefusal = some .reservedAngleOp) ∧
      (angleInstr r ≠ .aopRsvd → v.config.hasAngle = false → t.angOut = none ∧ t.angRefusal = some .noAngleUnit) ∧
      (angleInstr r ≠ .aopRsvd → v.config.hasAngle = true → t.angOut ≠ none ∧ t.angRefusal = none) := by
  rcases requestPart_answers (some r) v with ⟨hq, -⟩ | ⟨r', hq, hcases⟩
  · cases hq
  cases hq
  rcases hcases with ⟨hr, e⟩ | ⟨hr, ha, e⟩ | ⟨hr, ha, o, e⟩ <;> cases e.symm.trans h
  · simp [hr, ho]
  · simp [hr, ha, ho]
  · simp [hr, ha, hf]

/-! ### The statements of 00_scope.md -/

/-- Settles O8: the widths are Mathlib's `Nat.clog`, whose bounds say that they are least; the codes are evaluated. -/
theorem portCodesAndWidths : Obligations.PortCodesAndWidths :=
  ⟨⟨rfl, rfl, rfl, rfl, rfl, statusCode_ne_three, rfl, rfl⟩,
    fun c h =>
      ⟨lt_two_pow_lenWidth c, two_pow_lenWidth_sub_one_le h, cap_le_two_pow_addrWidth c, Nat.le_max_left 1 _⟩,
    by decide, by decide, by decide⟩

/-- Settles O54: every operation of U4 but the reserved one goes through `driveAngle`, which a build without U4 refuses. -/
theorem withoutAngleUnitNoAngleOperation : Obligations.WithoutAngleUnitNoAngleOperation := by
  intro i s hi hne ha
  rcases exec_asksAngle_answers hi s with ⟨hr, -⟩ | ⟨-, -, he⟩ | ⟨-, ha', -⟩
  · exact absurd hr hne
  · exact he
  · rw [ha] at ha'
    cases ha'

/-- Settles O59: neither of the two operations of a cycle changes the build. -/
theorem parametersAreFixed : Obligations.ParametersAreFixed := by
  constructor
  · intro s t h
    obtain ⟨v, hv, ht⟩ := andThen_next ((runCycle_eq s).symm.trans (step_next h).2)
    calc t.config = v.config := (requestPart_keeps ht).1
      _ = (beginCycle s).config := exec_config hv
      _ = s.config := beginCycle_config s
  · intro s h
    have hl : s.config.legal = false := by
      rcases h with h | h <;> simp [Config.legal, h]
    simp [step, guardedCycle, hl]

/-- Settles O55: the framer's operation and U4's are what `framerWord` and `angleWord` decode to, and the start of the
cycle is written out by `beginCycle_cons`. -/
theorem stepRunsTheDecodedOperation : Obligations.StepRunsTheDecodedOperation := by
  refine ⟨?_, fun s => step_nil, fun c => framerInstr_of_rst, fun c => framerInstr_of_no_byte, ?_, ?_, fun s => rfl, ?_⟩
  · intro s c rest hl hp
    obtain ⟨hn, hb⟩ := beginCycle_cons hp
    rw [step_legal hl, runCycle_eq, hn, hb]
  · intro c hr hv hname
    apply framerInstr_of_decode
    rw [framerWord_of_byte hr hv, hname]
    exact decode_byte c.inData
  · intro c i hr hv hd
    exact framerInstr_of_decode ((framerWord_of_byte hr hv).symm ▸ hd)
  · intro r i s hi
    have ha : angleInstr r = i := by
      rcases hi with hi | ⟨hno, rfl⟩
      · exact angleInstr_of_decode hi
      · exact angleInstr_of_no_row hno
    constructor
    · intro t ht
      rw [requestPart, ha, ht]
      rfl
    · intro w hw
      rw [requestPart, ha, hw]
      rfl

/-- Settles O58: the framer's operation is run first and answers a state; both steps end from that state. -/
theorem stepsNeverStopAndRequestsLeaveTheFramer : Obligations.StepsNeverStopAndRequestsLeaveTheFramer := by
  intro s h
  obtain ⟨v, hv⟩ := exec_framerInstr_answers h
  obtain ⟨t, ht⟩ := requestPart_next (nextCycle s).angle v
  obtain ⟨hconfig, -, hports, -, hout, href⟩ := exec_framerOp_keeps (isFramerOp_framerInstr _) hv
  obtain ⟨-, hst, hlen, hbuf, hpending, -, hemission, hrd, hdraws⟩ := requestPart_keeps ht
  refine ⟨t, withAngIn s.angIn v, (step_of_exec h.1 hv).trans ht, step_withoutRequest h.1 hv, hst, hlen, hbuf,
    hemission, hrd, hdraws, hpending, hout, href, ?_, ?_⟩
  · intro hnone
    have hkept : v.angIn = s.angIn := by
      rw [hports, beginCycle_angIn, hnone]
      rfl
    rw [hnone] at ht
    cases ht
    rw [← hkept]
    rfl
  · intro r hr
    rw [hr] at ht
    have houts := requestPart_outputs ht hout href
    rwa [hconfig, beginCycle_config] at houts

end Sys2Proof.Machine

/-! SUPPORT. The statements of 10_state.md: the invariants of R23 at reset, and after every operation and every step. -/

namespace Sys2Proof.Machine

/-! ### The invariants of R23 -/

/-- R8: the frame buffer of a legal build has a byte. -/
theorem cap_pos_of_legal {c : Config} (h : c.legal = true) : 0 < c.cap := by
  simp only [Config.legal, Bool.and_eq_true, decide_eq_true_eq] at h
  exact h.1

/-- R23 speaks of the build, `st`, `len` and `buf` only. -/
theorem framerInv_of_eq {s t : State} (h : FramerInv s) (hconfig : t.config = s.config) (hst : t.st = s.st)
    (hlen : t.len = s.len) (hbuf : t.buf = s.buf) : FramerInv t := by
  simpa only [FramerInv, BufferInv, IdleInv, FrameInv, hconfig, hst, hlen, hbuf] using h

/-- With no frame in progress R23 asks only for a legal build and the form of the buffer. -/
theorem framerInv_of_idle {s : State} (hlegal : s.config.legal = true) (hbuffer : BufferInv s) (hst : s.st = .idle)
    (hlen : s.len = 0) : FramerInv s :=
  ⟨hlegal, hbuffer, fun _ => hlen, fun hpayload => by simp [hst] at hpayload⟩

theorem framerInv_resetOf {c : Config} (h : c.legal = true) : FramerInv (State.resetOf c) :=
  framerInv_of_idle h ⟨List.Pairwise.nil, fun _ hc => nomatch hc⟩ rfl rfl

theorem framerInv_quiet {s : State} (h : FramerInv s) : FramerInv (quiet s) :=
  framerInv_of_eq h rfl rfl rfl rfl

theorem framerInv_beginCycle {s : State} (h : FramerInv s) : FramerInv (beginCycle s) :=
  framerInv_of_eq h rfl rfl rfl rfl

theorem framerInv_toIdle {s : State} (h : FramerInv s) : FramerInv (toIdle s) :=
  framerInv_of_idle h.1 h.2.1 rfl rfl

theorem framerInv_guard {s : State} (h : FramerInv s) : FramerInv (bufferFullGuard s) := by
  by_cases hfull : s.st = .payload ∧ s.len = s.config.cap
  · rw [guard_full hfull]
    exact framerInv_toIdle h
  · rw [guard_notFull hfull]
    exact h

/-- R32, R40: a byte stored at an index that exists keeps the form of the buffer. -/
theorem bufferInv_withByte {s : State} {i : Nat} (h : BufferInv s) (hi : i < s.config.cap) (b : Byte) :
    BufferInv (withByte s i b) :=
  ⟨memWf_memWrite h.1 i b, memWrite_below h.2 hi b⟩

/-- R103, R105: a `$` at index 0 is a frame of one byte, whatever the buffer held before. -/
theorem framerInv_withByte_start {s : State} (h : FramerInv s) : FramerInv (withByte s 0 asciiDollar) := by
  obtain ⟨hlegal, hbuffer, -, -⟩ := h
  have hcap := cap_pos_of_legal hlegal
  refine ⟨hlegal, bufferInv_withByte hbuffer hcap _, nofun, fun _ => ⟨Nat.le_refl 1, hcap, ?_, ?_⟩⟩
  · exact memRead_memWrite_same s.buf 0 asciiDollar
  · intro i hi hpos
    rw [withByte_len] at hi
    omega

/-- R107: a `DATA` byte after the last byte of a frame makes a frame again: the bytes before it are kept, `$` among
them. -/
theorem framerInv_withByte_append {s : State} {b : Byte} (h : FramerInv s) (hst : s.st = .payload)
    (hroom : s.len < s.config.cap) (hb : classOf b = .data) : FramerInv (withByte s s.len b) := by
  obtain ⟨hlegal, hbuffer, -, hframe⟩ := h
  obtain ⟨hpos, -, hdollar, hplain⟩ := hframe hst
  refine ⟨hlegal, bufferInv_withByte hbuffer hroom b, nofun, fun _ => ⟨Nat.le_add_left 1 s.len, hroom, ?_, ?_⟩⟩
  · rw [withByte_buf, memRead_memWrite_other s.buf b (by omega), hdollar]
  · intro i hi hi1
    rw [withByte_len] at hi
    rw [withByte_buf, memRead_memWrite]
    split
    · simp [plainByte, hb]
    · exact hplain i (by omega) hi1

/-- R106: the emission leaves no frame in progress. The `<LF>` that ends the frame is in the buffer, so the state it is
emitted from need not meet R23 itself. -/
theorem framerInv_emitFrame {s : State} (hlegal : s.config.legal = true) (hbuffer : BufferInv s) :
    FramerInv (emitFrame s) :=
  framerInv_of_idle hlegal hbuffer rfl rfl

/-- R23, R100: a byte keeps the invariants, in each of the four things it can do. -/
theorem acceptByte_framerInv {b : Byte} {s t : State} (h : FramerInv s) (ht : acceptByte b s = .next t) :
    FramerInv t := by
  have hguard : FramerInv (bufferFullGuard (quiet s)) := framerInv_guard (framerInv_quiet h)
  have hconfig : (bufferFullGuard (quiet s)).config = s.config := (guard_keeps (quiet s)).1
  rcases acceptByte_cases ht with
    ⟨-, -, rfl⟩ | ⟨hsof, -, rfl⟩ | ⟨-, -, hroom, rfl⟩ | ⟨hst, hdata, hroom, rfl⟩
  · exact hguard
  · rw [classOf_sof.mp hsof]
    exact framerInv_withByte_start hguard
  · exact framerInv_emitFrame hguard.1 (bufferInv_withByte hguard.2.1 (hconfig ▸ hroom) b)
  · exact framerInv_withByte_append hguard hst (hconfig ▸ hroom) hdata

theorem exec_framerOp_framerInv {i : Instr} {s t : State} (hi : IsFramerOp i) (h : FramerInv s)
    (ht : exec i s = .next t) : FramerInv t := by
  rcases hi with hi | rfl | rfl
  · exact acceptByte_framerInv h ((exec_offersByte hi s).symm.trans ht)
  · cases ht
    exact framerInv_toIdle (framerInv_quiet h)
  · cases ht
    exact framerInv_quiet h

/-- R260: what U4 does with a request does not touch what R23 speaks of. -/
theorem requestPart_framerInv {q : Option AngleReq} {s t : State} (h : FramerInv s)
    (ht : requestPart q s = .next t) : FramerInv t := by
  obtain ⟨hconfig, hst, hlen, hbuf, -⟩ := requestPart_keeps ht
  exact framerInv_of_eq h hconfig hst hlen hbuf

/-! ### The statements of 10_state.md -/

/-- Settles O19: the start of the cycle, the framer's operation and U4's request each keep the invariants. -/
theorem stepKeepsTheFramerInvariants : Obligations.StepKeepsTheFramerInvariants := by
  intro s t h ht
  obtain ⟨v, hv, hrequest⟩ := andThen_next ((runCycle_eq s).symm.trans (step_next ht).2)
  have hframer : FramerInv v :=
    exec_framerOp_framerInv (isFramerOp_framerInstr _) (framerInv_beginCycle h) hv
  exact requestPart_framerInv hframer hrequest

/-- Settles O18: a frame of R23 fits the buffer, so the byte is taken, and it keeps the invariants. -/
theorem everyByteIsAccepted : Obligations.EveryByteIsAccepted := by
  intro i s hi h
  have hfits : s.st = .payload → s.len ≤ s.config.cap := by
    intro hst
    obtain ⟨-, -, -, hframe⟩ := h
    obtain ⟨-, hlen, -⟩ := hframe hst
    exact hlen
  obtain ⟨t, ht⟩ := exec_framerOp_answers (.inl hi) (cap_pos_of_legal h.1) hfits
  exact ⟨t, ht, exec_framerOp_framerInv (.inl hi) h ht⟩

/-- Settles O20: at reset no frame is in progress and no byte is written, in every legal build and so in the default. -/
theorem resetMeetsTheFramerInvariants : Obligations.ResetMeetsTheFramerInvariants :=
  ⟨framerInv_resetOf (by decide), fun _ => framerInv_resetOf, rfl, rfl, rfl, memRead_nil⟩

end Sys2Proof.Machine

/-! SUPPORT. The statements of 20_memory.md: what a byte operation and a step write, the view after an emission, and the
read port. -/

namespace Sys2Proof.Machine

/-! ### The operation of an offered byte -/

/-- R66: an operation decoded from a byte offered on the ingestion port is encoded by that byte, whatever its name. -/
theorem encode_bits_of_decode {n : ByteName} {b : Byte} {i : Instr} (h : decode ⟨nameFormat n, b⟩ = .ok i) :
    (encode i).bits = b := by
  have rows : ∀ b : Byte,
      (match decode ⟨nameFormat n, b⟩ with | .ok i => decide ((encode i).bits = b) | .error _ => true) = true := by
    cases n <;> decide +kernel
  simpa [h] using rows b

/-- R61: the operation of a byte's class is encoded by the byte. -/
theorem encode_bits_decodeByte (b : Byte) : (encode (decodeByte b)).bits = b :=
  encode_bits_of_decode (n := .byClass) (decode_byte b)

/-- R60: in a cycle that offers a byte the framer takes the byte, whatever it is named. -/
theorem exec_framerInstr_of_byte {c : ClockCycle} (hr : c.rst = false) (hv : c.inValid = true) (s : State) :
    exec (framerInstr c) s = acceptByte c.inData s := by
  unfold framerInstr
  rw [framerWord_of_byte hr hv]
  split
  · rename_i h
    rw [exec_offersByte (offersByte_of_decode h), encode_bits_of_decode h]
  · rw [exec_offersByte (offersByte_decodeByte _), encode_bits_decodeByte]

/-- R6, said once: a step begins its cycle, lets the framer be reset, stay idle or take a byte, and ends with the request
part. -/
theorem step_cases {s t : State} (h : step s = .next t) :
    ∃ v, requestPart (nextCycle s).angle v = .next t ∧
      (v = toIdle (quiet (beginCycle s)) ∨ v = quiet (beginCycle s) ∨
        ((nextCycle s).rst = false ∧ (nextCycle s).inValid = true ∧
          acceptByte (nextCycle s).inData (beginCycle s) = .next v)) := by
  obtain ⟨v, hv, ht⟩ := andThen_next ((runCycle_eq s).symm.trans (step_next h).2)
  refine ⟨v, ht, ?_⟩
  cases hr : (nextCycle s).rst with
  | true =>
    rw [framerInstr_of_rst hr] at hv
    cases hv
    exact .inl rfl
  | false =>
    cases hi : (nextCycle s).inValid with
    | false =>
      rw [framerInstr_of_no_byte hr hi] at hv
      cases hv
      exact .inr (.inl rfl)
    | true =>
      rw [exec_framerInstr_of_byte hr hi] at hv
      exact .inr (.inr ⟨rfl, rfl, hv⟩)

/-! ### What a byte writes -/

/-- R102: a frame still in progress after the guard is one on which it did not fire. -/
theorem guard_of_payload {s : State} (h : (bufferFullGuard s).st = .payload) : bufferFullGuard s = s := by
  by_cases hfull : s.st = .payload ∧ s.len = s.config.cap
  · rw [guard_full hfull] at h
    cases h
  · exact guard_notFull hfull

/-- R42: the three things a byte can do to the buffer, by the byte and the state the guard leaves. -/
theorem acceptByte_buf {b : Byte} {s t : State} (h : acceptByte b s = .next t) :
    t.buf = s.buf ∨
      (b = asciiDollar ∧ t.buf = memWrite s.buf 0 b) ∨
      (b ≠ asciiDollar ∧ (bufferFullGuard (quiet s)).st = .payload ∧
        t.buf = memWrite s.buf (bufferFullGuard (quiet s)).len b) := by
  have hbuf : (bufferFullGuard (quiet s)).buf = s.buf := (guard_keeps (quiet s)).2.1
  have hother : classOf b ≠ .sof → b ≠ asciiDollar := mt classOf_sof.mpr
  rcases acceptByte_cases h with ⟨-, -, rfl⟩ | ⟨hb, -, rfl⟩ | ⟨hst, hb, -, rfl⟩ | ⟨hst, hb, -, rfl⟩
  · exact .inl hbuf
  · exact .inr (.inl ⟨classOf_sof.mp hb, by rw [withByte_buf, hbuf]⟩)
  · exact .inr (.inr ⟨hother (by simp [hb]), hst, by rw [emitFrame_eq, withByte_buf, hbuf]⟩)
  · exact .inr (.inr ⟨hother (by simp [hb]), hst, by rw [withByte_buf, hbuf]⟩)

/-- R104: with no frame in progress any byte but `$` is discarded. -/
theorem acceptByte_outside_frame {b : Byte} {s : State} (hb : b ≠ asciiDollar) (hst : s.st = .idle) :
    acceptByte b s = .next (quiet s) := by
  have hg : bufferFullGuard (quiet s) = quiet s := guard_notFull (by simp [hst])
  rw [acceptByte_idle (mt classOf_sof.mp hb) (by rw [hg, quiet_st, hst]), hg]

/-! ### A frame whose bytes were all written -/

theorem definedByte_of_lt {s : State} {i : Nat} (h : i < s.config.cap) : definedByte s i = memRead s.buf i := if_pos h

theorem memRead_of_definedByte {s : State} {i : Nat} {b : Byte} (h : definedByte s i = some b) :
    memRead s.buf i = some b := by
  unfold definedByte at h
  split at h
  · exact h
  · cases h

@[simp] theorem length_frameBytes (s : State) (n : Nat) : (frameBytes s n).length = n := by
  simp [frameBytes]

/-- R44, R45: the view holds the bytes the validator reads. -/
theorem viewHolds_frameBytes {s : State} {n : Nat} (h : ∀ i < n, (definedByte s i).isSome) :
    ViewHolds s (frameBytes s n) := by
  intro i hi
  rw [length_frameBytes] at hi
  obtain ⟨b, hb⟩ := Option.isSome_iff_exists.mp (h i hi)
  simp [memRead_of_definedByte hb, frameBytes, byteAt, hb, hi]

theorem drawsOf_written {s : State} {n : Nat} (h : ∀ i < n, (definedByte s i).isSome) : drawsOf s n = 0 :=
  if_pos (List.all_eq_true.mpr fun i hi => h i (List.mem_range.mp hi))

theorem isSome_of_plainByte {o : Option Byte} (h : plainByte o = true) : o.isSome := by
  cases o with
  | none => cases h
  | some b => rfl

/-- R23 (iii), (iv): every byte of the frame in progress was written. -/
theorem definedByte_of_frame {s : State} (h : FramerInv s) (hst : s.st = .payload) :
    ∀ i < s.len, (definedByte s i).isSome := by
  obtain ⟨-, -, -, hframe⟩ := h
  obtain ⟨-, hcap, hdollar, hplain⟩ := hframe hst
  intro i hi
  rw [definedByte_of_lt (by omega)]
  cases i with
  | zero => simp [hdollar]
  | succ k => exact isSome_of_plainByte (hplain (k + 1) hi (by omega))

/-- R106: with the byte that ends it, the frame is still written whole. -/
theorem definedByte_of_frame_append {s : State} (h : FramerInv s) (hst : s.st = .payload)
    (hroom : s.len < s.config.cap) (b : Byte) : ∀ i < s.len + 1, (definedByte (withByte s s.len b) i).isSome := by
  intro i hi
  rw [definedByte_of_lt (by rw [withByte_config]; omega), withByte_buf, memRead_memWrite]
  split
  · rfl
  · rename_i hne
    have hlt : i < s.len := by omega
    have hold := definedByte_of_frame h hst i hlt
    rwa [definedByte_of_lt (by omega)] at hold

/-- R44, R45, R108: in a state of R23 a byte that emits leaves the frame in the view, and no byte takes a free value. -/
theorem acceptByte_emission {b : Byte} {s t : State} (h : FramerInv s) (ht : acceptByte b s = .next t) :
    t.draws = s.draws ∧
      ∀ e, t.emission = some e → t.st = .idle ∧ e.frmLen = e.frame.length ∧ ViewHolds t e.frame := by
  have hguard : FramerInv (bufferFullGuard (quiet s)) := framerInv_guard (framerInv_quiet h)
  obtain ⟨hconfig, -, -, -, hemission, -, -, hdraws, -⟩ := guard_keeps (quiet s)
  rcases acceptByte_cases ht with ⟨-, -, rfl⟩ | ⟨-, -, rfl⟩ | ⟨hst, -, hroom, rfl⟩ | ⟨-, -, -, rfl⟩
  · exact ⟨hdraws, by simp [hemission]⟩
  · exact ⟨hdraws, by simp [hemission]⟩
  · have hwritten := definedByte_of_frame_append hguard hst (hconfig ▸ hroom) b
    constructor
    · rw [emitFrame_eq, withByte_len, drawsOf_written hwritten]
      exact hdraws
    · intro e he
      rw [emitFrame_eq, withByte_len] at he
      cases he
      exact ⟨rfl, (length_frameBytes _ _).symm, viewHolds_frameBytes hwritten⟩
  · exact ⟨hdraws, by simp [hemission]⟩

/-- R43: the framer's part of a step from a state of R23 takes no free value. -/
theorem exec_framerOp_draws {i : Instr} {s t : State} (hi : IsFramerOp i) (h : FramerInv s)
    (ht : exec i s = .next t) : t.draws = s.draws := by
  rcases hi with hi | rfl | rfl
  · exact (acceptByte_emission h ((exec_offersByte hi s).symm.trans ht)).1
  · cases ht
    rfl
  · cases ht
    rfl

/-! ### The read port -/

/-- R43: an address of `ADDR_W` bits selects itself. -/
theorem readIndex_of_lt {c : Config} {a : Nat} (h : a < 2 ^ addrWidth c) : readIndex c a = a := Nat.mod_eq_of_lt h

theorem readPort_of_defined {s : State} {a : Nat} {b : Byte} (ha : a < 2 ^ addrWidth s.config)
    (h : definedByte s a = some b) : readPort s a = b ∧ readDraws s a = 0 := by
  simp [readPort, readDraws, byteAt, readIndex_of_lt ha, h]

theorem readPort_of_undefined {s : State} {a : Nat} (ha : a < 2 ^ addrWidth s.config)
    (h : definedByte s a = none) : readPort s a = Config.freeByte s.draws ∧ readDraws s a = 1 := by
  simp [readPort, readDraws, byteAt, readIndex_of_lt ha, h]

/-- R43: a step from a state of R23 answers what the read port shows at its start, and draws for the read alone. -/
theorem step_of_read {s : State} {a : Nat} (h : FramerInv s) (hread : (nextCycle s).rdAddr = some a) :
    ∃ t, step s = .next t ∧ t.rdData = some (readPort s a) ∧ t.draws = s.draws + readDraws s a := by
  obtain ⟨v, hv⟩ := exec_framerInstr_answers h
  obtain ⟨t, ht⟩ := requestPart_next (nextCycle s).angle v
  have hframer := isFramerOp_framerInstr (nextCycle s)
  obtain ⟨-, -, -, hrdv, -, -⟩ := exec_framerOp_keeps hframer hv
  have hdrawsv := exec_framerOp_draws hframer (framerInv_beginCycle h) hv
  obtain ⟨-, -, -, -, -, -, -, hrdt, hdrawst⟩ := requestPart_keeps ht
  refine ⟨t, (step_of_exec h.1 hv).trans ht, ?_, ?_⟩
  · rw [hrdt, hrdv, beginCycle_rdData, hread, Option.map_some]
  · rw [hdrawst, hdrawsv, beginCycle_draws, hread, Option.map_some, Option.getD_some]

/-! ### The statements of 20_memory.md -/

/-- Settles O17: the byte is taken by its class, and each of the three things it can do to the buffer writes only where
the statement says. -/
theorem byteOperationFrame : Obligations.ByteOperationFrame := by
  intro i s t hi ht
  have hbyte : acceptByte (encode i).bits s = .next t := (exec_offersByte hi s).symm.trans ht
  obtain ⟨hconfig, hpending, hports, hrd, hout, href⟩ := acceptByte_keeps hbyte
  refine ⟨hconfig, hpending, hports, hrd, hout, href, ?_⟩
  intro a hstart happend
  rcases acceptByte_buf hbyte with hbuf | ⟨hb, hbuf⟩ | ⟨hb, hst, hbuf⟩ <;> rw [hbuf]
  · exact memRead_memWrite_other s.buf _ (hstart hb)
  · exact memRead_memWrite_other s.buf _ (happend hb hst)

/-- Settles O28: only an offered byte writes, and a frame still in progress after the guard has the `len` of the state. -/
theorem stepWritesAtMostOneByte : Obligations.StepWritesAtMostOneByte := by
  intro s t h
  obtain ⟨v, ht, hv⟩ := step_cases h
  obtain ⟨-, -, -, hbuf, -⟩ := requestPart_keeps ht
  rw [hbuf]
  rcases hv with rfl | rfl | ⟨-, -, hv⟩
  · exact .inl rfl
  · exact .inl rfl
  · rcases acceptByte_buf hv with hsame | ⟨hb, hstart⟩ | ⟨-, hst, happend⟩
    · exact .inl hsame
    · exact .inr (.inl (by rw [hstart, hb, beginCycle_buf]))
    · rw [guard_of_payload hst] at happend
      exact .inr (.inr ⟨_, happend⟩)

/-- Settles O29: only an offered byte emits, and in a state of R23 all bytes of its frame were written. -/
theorem viewIsCompleteAfterTheEmission : Obligations.ViewIsCompleteAfterTheEmission := by
  intro s t e h hstep he
  obtain ⟨v, ht, hv⟩ := step_cases hstep
  obtain ⟨-, hst, -, hbuf, -, -, hemission, -⟩ := requestPart_keeps ht
  rw [hemission] at he
  rw [ViewHolds, hst, hbuf]
  rcases hv with rfl | rfl | ⟨-, -, hv⟩
  · cases he
  · cases he
  · exact (acceptByte_emission (framerInv_beginCycle h) hv).2 e he

/-- Settles O30: a reset, an idle step and a byte discarded outside a frame each leave `IDLE` and the buffer as they
were. -/
theorem viewLastsUntilTheNextDollar : Obligations.ViewLastsUntilTheNextDollar := by
  intro s t f hidle hview hnone hstep
  obtain ⟨v, ht, hv⟩ := step_cases hstep
  obtain ⟨-, hst, -, hbuf, -⟩ := requestPart_keeps ht
  rw [ViewHolds, hst, hbuf]
  rcases hv with rfl | rfl | ⟨hr, hi, hv⟩
  · exact ⟨rfl, hview⟩
  · exact ⟨hidle, hview⟩
  · have hb : (nextCycle s).inData ≠ asciiDollar := by simpa [acceptsDollar, hr, hi] using hnone
    rw [acceptByte_outside_frame (s := beginCycle s) hb hidle] at hv
    cases hv
    exact ⟨hidle, hview⟩

/-- Settles O31: the read is taken at the start of the cycle, and nothing after it in the step draws a free value. -/
theorem readPortShowsTheStartOfTheStep : Obligations.ReadPortShowsTheStartOfTheStep := by
  intro s c rest a h hpending hread ha
  have hnext : nextCycle s = c := (beginCycle_cons hpending).1
  obtain ⟨t, ht, hrd, hdraws⟩ := step_of_read h (hnext ▸ hread)
  refine ⟨t, ht, ?_, ?_⟩
  · intro b hcap hb
    obtain ⟨hport, hused⟩ := readPort_of_defined ha ((definedByte_of_lt hcap).trans hb)
    rw [hrd, hdraws, hport, hused]
    exact ⟨rfl, rfl⟩
  · intro hfree
    have hundefined : definedByte s a = none := by
      unfold definedByte
      split
      · exact hfree.resolve_left (by omega)
      · rfl
    obtain ⟨hport, hused⟩ := readPort_of_undefined ha hundefined
    rw [hrd, hdraws, hport, hused]
    exact ⟨rfl, rfl⟩

end Sys2Proof.Machine

/-! SUPPORT. The statements of 30_encoding.md: the opcode map and its two directions, the characters, the wire format,
what the markers and digits of a sentence do, steps without a byte, and the host's table words. -/

namespace Sys2Proof.Machine

/-! ### The encoder and the decoder -/

/-- R66: the encoding of every operation is read back. Each constructor but `data` is one exact row of the map; a byte
of `DATA` is taken by its class. -/
theorem decode_encode {i : Instr} (h : i.wellFormed = true) : decode (encode i) = .ok i := by
  cases i with
  | data b =>
    have hclass : classOf b = .data := by simpa [Instr.wellFormed, classOf_data] using h
    have hbyte : decodeByte b = .data b := by simp [decodeByte, hclass]
    exact (decode_byte b).trans (congrArg Except.ok hbyte)
  | _ => rfl

/-- R66: what is decoded is the operation of a row of the value's format that the value is in. -/
theorem exists_row_of_decode {w : TableWord} {i : Instr} (h : decode w = .ok i) :
    w.bits.toNat < 2 ^ w.format.width ∧
      ∃ r ∈ opcodeRows, r.format = w.format ∧ w.bits &&& r.mask = r.pattern ∧ i = r.instr w.bits := by
  unfold decode at h
  split at h
  · cases h
  · rename_i hwidth
    split at h
    · rename_i r hr
      cases h
      have hmatch := List.find?_some hr
      simp only [rowMatches, Bool.and_eq_true, decide_eq_true_eq] at hmatch
      exact ⟨Nat.lt_of_not_le hwidth, r, List.mem_of_find?_eq_some hr, hmatch.1, hmatch.2, rfl⟩
    · cases h

/-- The mask that fixes every bit of a format. -/
def fullMask (f : Format) : Byte := BitVec.ofNat 8 (2 ^ f.width - 1)

theorem toNat_fullMask (f : Format) : (fullMask f).toNat = 2 ^ f.width - 1 := by
  cases f <;> rfl

/-- The full mask drops no bit of a value of the format. -/
theorem and_fullMask {f : Format} {b : Byte} (h : b.toNat < 2 ^ f.width) : b &&& fullMask f = b := by
  apply BitVec.eq_of_toNat_eq
  rw [BitVec.toNat_and, toNat_fullMask, Nat.and_two_pow_sub_one_eq_mod, Nat.mod_eq_of_lt h]

/-- R66: an exact row gives one operation, whatever the value. -/
theorem instr_of_mem_exactRows : ∀ r ∈ exactRows, ∀ b : Byte, r.instr b = r.instr 0 := by
  simp only [exactRows, ctrlRows, frameByteRows, markRows, hexDigitRows, hexUpperRows, hexLowerRows, hemiRows, aopRows,
    List.cons_append, List.nil_append, List.forall_mem_cons, List.not_mem_nil, false_implies, implies_true, and_self]

/-- R66: an exact row has the full mask, and its pattern is the encoding of its operation. -/
theorem encode_of_mem_exactRows : ∀ r ∈ exactRows,
    r.mask = fullMask r.format ∧ (r.instr 0).wellFormed = true ∧ encode (r.instr 0) = ⟨r.format, r.pattern⟩ := by
  decide

/-- R61: a `DATA` block gives the byte itself. -/
theorem instr_of_mem_dataRows : ∀ r ∈ dataRows, ∀ b : Byte, r.format = .byte ∧ r.instr b = .data b := by
  simp [dataRows]

/-- R61: neither `$` nor `<LF>` is in a `DATA` block. -/
theorem framing_bytes_not_in_dataRows :
    ∀ r ∈ dataRows, rowMatches r 0x24#8 = false ∧ rowMatches r 0x0A#8 = false := by
  decide

/-- R61: the rows of the ingestion port cover every byte, and no two overlap. -/
theorem byte_rows_cover_once :
    ∀ b : Byte, ((frameByteRows ++ dataRows).filter (fun r => rowMatches r b)).length = 1 := by
  decide +kernel

/-- R66: a value in a row is the encoding of the row's operation, which is well-formed. -/
theorem encode_of_row {r : Row} {b : Byte} (hr : r ∈ opcodeRows) (hwidth : b.toNat < 2 ^ r.format.width)
    (hmatch : b &&& r.mask = r.pattern) :
    (r.instr b).wellFormed = true ∧ encode (r.instr b) = ⟨r.format, b⟩ := by
  rcases List.mem_append.mp hr with hexact | hdata
  · obtain ⟨hmask, hwf, henc⟩ := encode_of_mem_exactRows r hexact
    rw [hmask, and_fullMask hwidth] at hmatch
    rw [instr_of_mem_exactRows r hexact]
    exact ⟨hwf, hmatch ▸ henc⟩
  · obtain ⟨hformat, hinstr⟩ := instr_of_mem_dataRows r hdata b
    obtain ⟨hdollar, hlf⟩ := framing_bytes_not_in_dataRows r hdata
    rw [hinstr, hformat]
    refine ⟨?_, rfl⟩
    simp only [Instr.wellFormed, Bool.and_eq_true, decide_eq_true_eq]
    constructor
    · rintro rfl
      simp [rowMatches, hmatch] at hdollar
    · rintro rfl
      simp [rowMatches, hmatch] at hlf

/-- R66: what a value decodes to is well-formed and encoded by the value. -/
theorem encode_of_decode {w : TableWord} {i : Instr} (h : decode w = .ok i) :
    i.wellFormed = true ∧ encode i = w := by
  obtain ⟨hwidth, r, hr, hformat, hmatch, rfl⟩ := exists_row_of_decode h
  have hrow := encode_of_row hr (hformat.symm ▸ hwidth) hmatch
  rwa [hformat] at hrow

/-! ### The characters -/

/-- The values of the exact rows of a format. -/
def patternsOf (f : Format) : List Byte := (exactRows.filter (fun r => decide (r.format = f))).map Row.pattern

/-- R66: at a place without `DATA` blocks the values that have a meaning are those of the exact rows. -/
theorem exists_decode_iff {f : Format} (hf : f ≠ .byte) (b : Byte) :
    (∃ i, decode ⟨f, b⟩ = .ok i) ↔ b ∈ patternsOf f := by
  simp only [patternsOf, List.mem_map, List.mem_filter, decide_eq_true_eq]
  constructor
  · rintro ⟨i, h⟩
    obtain ⟨hwidth, r, hr, rfl, hmatch, -⟩ := exists_row_of_decode h
    rcases List.mem_append.mp hr with hexact | hdata
    · obtain ⟨hmask, -, -⟩ := encode_of_mem_exactRows r hexact
      exact ⟨r, ⟨hexact, rfl⟩, by rw [← hmatch, hmask, and_fullMask hwidth]⟩
    · exact absurd (instr_of_mem_dataRows r hdata b).1 hf
  · rintro ⟨r, ⟨hexact, rfl⟩, rfl⟩
    obtain ⟨-, hwf, henc⟩ := encode_of_mem_exactRows r hexact
    exact ⟨r.instr 0, henc ▸ decode_encode hwf⟩

/-- R63, R68: the `HEXCH` rows are the hex characters. -/
theorem mem_patternsOf_hexch : ∀ b : Byte, b ∈ patternsOf .hexch ↔ hexval b ≠ none := by
  decide +kernel

/-- R69, R190: the `HEMI` rows are the hemisphere letters. -/
theorem mem_patternsOf_hemi : ∀ b : Byte, b ∈ patternsOf .hemi ↔ hemiSign b ≠ none := by
  decide +kernel

/-- R68: the `MARK` rows are the four markers. -/
theorem patternsOf_mark : patternsOf .mark = [0x24#8, 0x0D#8, 0x0A#8, 0x2A#8] := by
  decide

theorem hexval_of_digit {c : Byte} (h : 0x30 ≤ c.toNat ∧ c.toNat ≤ 0x39) : hexval c = some (c.toNat - 0x30) :=
  if_pos h

theorem hexval_of_upper {c : Byte} (h : 0x41 ≤ c.toNat ∧ c.toNat ≤ 0x46) :
    hexval c = some (c.toNat - 0x41 + 10) :=
  (if_neg (by omega)).trans (if_pos h)

theorem hexval_of_lower {c : Byte} (h : 0x61 ≤ c.toNat ∧ c.toNat ≤ 0x66) :
    hexval c = some (c.toNat - 0x61 + 10) :=
  (if_neg (by omega)).trans ((if_neg (by omega)).trans (if_pos h))

/-- R63: a byte outside the three ranges has no value. -/
theorem hexval_of_not_hex {c : Byte} (hdigit : ¬(0x30 ≤ c.toNat ∧ c.toNat ≤ 0x39))
    (hupper : ¬(0x41 ≤ c.toNat ∧ c.toNat ≤ 0x46)) (hlower : ¬(0x61 ≤ c.toNat ∧ c.toNat ≤ 0x66)) :
    hexval c = none :=
  (if_neg hdigit).trans ((if_neg hupper).trans (if_neg hlower))

/-- R65: the character of a digit has the digit's value and is upper case. -/
theorem hexchar_spells : ∀ d < 16, hexval (hexchar d) = some d ∧ upperByte (hexchar d) = hexchar d := by
  decide

theorem receivedChecksum_of_hexval {hi lo : Byte} {h l : Nat} (hh : hexval hi = some h) (hl : hexval lo = some l) :
    receivedChecksum hi lo = some (16 * h + l) := by
  simp [receivedChecksum, hh, hl]

/-- R61, R63: to the framer a hex character is `DATA`. -/
theorem classOf_of_hexval {b : Byte} {d : Nat} (h : hexval b = some d) : classOf b = .data := by
  rw [classOf_data]
  constructor <;> rintro rfl <;> cases h

/-! ### Names of bytes -/

/-- R60: what the framer does in a cycle is fixed by `rst`, `in_valid` and `in_data`, and no name has a part in it. -/
theorem exec_framerInstr_congr {c d : ClockCycle} (hr : d.rst = c.rst) (hv : d.inValid = c.inValid)
    (hb : d.inData = c.inData) (s : State) : exec (framerInstr d) s = exec (framerInstr c) s := by
  cases hrst : c.rst with
  | true => rw [framerInstr_of_rst hrst, framerInstr_of_rst (hr.trans hrst)]
  | false =>
    cases hvalid : c.inValid with
    | false =>
      rw [framerInstr_of_no_byte hrst hvalid, framerInstr_of_no_byte (hr.trans hrst) (hv.trans hvalid)]
    | true =>
      rw [exec_framerInstr_of_byte hrst hvalid, exec_framerInstr_of_byte (hr.trans hrst) (hv.trans hvalid), hb]

/-! ### The wire format -/

/-- R62: a frame of the wire format, from its payload and what stands at the two digit positions. -/
def wireFrame (p : List Byte) (h l : Byte) : List Byte := [asciiDollar] ++ p ++ [asciiStar, h, l, asciiCr, asciiLf]

theorem length_wireFrame (p : List Byte) (h l : Byte) : (wireFrame p h l).length = p.length + 6 := by
  simp [wireFrame]

theorem validate_reason (f : List Byte) : (validate f).reason = reasonMask f := by
  unfold validate
  split
  · rename_i h
    exact h.symm
  · rfl

theorem bits_eq_zero_iff : ∀ a b c d : Bool,
    bit a ++ bit b ++ bit c ++ bit d = 0#4 ↔ a = false ∧ b = false ∧ c = false ∧ d = false := by
  decide

/-- R155: no reason bit is set exactly when no check fails. -/
theorem reasonMask_eq_zero_iff {f : List Byte} :
    reasonMask f = 0 ↔ noStar f = false ∧ noTerm f = false ∧ noStart f = false ∧ tooShort f = false :=
  bits_eq_zero_iff ..

/-- R150: a distance from the end that stays within the last bytes reads them alone. -/
theorem fromEnd_append (f g : List Byte) {k : Nat} (h : k ≤ g.length) : fromEnd (f ++ g) k = fromEnd g k := by
  have hlen : (f ++ g).length = f.length + g.length := List.length_append
  have hindex : f.length + g.length - k - f.length = g.length - k := by omega
  rw [fromEnd, fromEnd, if_pos h, if_pos (by omega), hlen, List.getElem?_append_right (by omega), hindex]

/-- R151 to R154: the four checks of a sequence of at least 6 bytes, by its first byte and its last five. -/
theorem reasonMask_of_parts (d s h l c e : Byte) (p : List Byte) :
    reasonMask ([d] ++ p ++ [s, h, l, c, e]) = 0 ↔
      s = asciiStar ∧ (c = asciiCr ∧ e = asciiLf) ∧ d = asciiDollar := by
  have hstar : fromEnd ([d] ++ p ++ [s, h, l, c, e]) 5 = some s := fromEnd_append _ _ (by simp)
  have hcr : fromEnd ([d] ++ p ++ [s, h, l, c, e]) 2 = some c := fromEnd_append _ _ (by simp)
  have hlf : fromEnd ([d] ++ p ++ [s, h, l, c, e]) 1 = some e := fromEnd_append _ _ (by simp)
  have hdollar : ([d] ++ p ++ [s, h, l, c, e])[0]? = some d := rfl
  have hlong : tooShort ([d] ++ p ++ [s, h, l, c, e]) = false := by simp [tooShort, minLen]
  rw [reasonMask_eq_zero_iff, noStar, noTerm, noStart, hstar, hcr, hlf, hdollar, hlong]
  simp

theorem exists_eq_of_length_eq_five {g : List Byte} (h : g.length = 5) : ∃ a b c d e, g = [a, b, c, d, e] := by
  match g, h with
  | [a, b, c, d, e], _ => exact ⟨a, b, c, d, e, rfl⟩

/-- A sequence of at least 6 bytes has a first byte and five last ones. -/
theorem exists_parts {f : List Byte} (hf : 6 ≤ f.length) :
    ∃ d p s h l c e, f = [d] ++ p ++ [s, h, l, c, e] := by
  cases f with
  | nil => simp at hf
  | cons d g =>
    rw [List.length_cons] at hf
    obtain ⟨s, h, l, c, e, hlast⟩ :=
      exists_eq_of_length_eq_five (g := g.drop (g.length - 5)) (by rw [List.length_drop]; omega)
    refine ⟨d, g.take (g.length - 5), s, h, l, c, e, ?_⟩
    rw [← hlast, List.append_assoc, List.take_append_drop, List.singleton_append]

/-- R156: a sequence of 5 bytes would need `$` and `*` at one place. -/
theorem six_le_length_of_reasonMask {f : List Byte} (h : reasonMask f = 0) : 6 ≤ f.length := by
  obtain ⟨hstar, -, hdollar, hlong⟩ := reasonMask_eq_zero_iff.mp h
  have hlong : ¬f.length < 5 := of_decide_eq_false hlong
  simp only [noStart, noStar, decide_eq_false_iff_not, not_not] at hdollar hstar
  by_contra hshort
  have hfive : f.length = 5 := by omega
  rw [fromEnd, if_pos (by omega), hfive, Nat.sub_self, hdollar] at hstar
  cases hstar

/-- R62: no check fails exactly when the sequence has the wire format. -/
theorem reasonMask_eq_zero_iff_wireFrame {f : List Byte} :
    reasonMask f = 0 ↔ ∃ p h l, f = wireFrame p h l := by
  constructor
  · intro hf
    obtain ⟨d, p, s, h, l, c, e, rfl⟩ := exists_parts (six_le_length_of_reasonMask hf)
    obtain ⟨rfl, ⟨rfl, rfl⟩, rfl⟩ := (reasonMask_of_parts ..).mp hf
    exact ⟨p, h, l, rfl⟩
  · rintro ⟨p, h, l, rfl⟩
    exact (reasonMask_of_parts ..).mpr ⟨rfl, ⟨rfl, rfl⟩, rfl⟩

/-- R157: the validator's range of a frame of the wire format is its payload. -/
theorem checksum_wireFrame (p : List Byte) (h l : Byte) :
    checksum (wireFrame p h l) 1 p.length = checksum p 0 p.length := by
  rw [checksum_whole]
  simp [checksum, wireFrame]

/-- R157, R158: the verdict of a frame of the wire format. -/
theorem validate_wireFrame (p : List Byte) (h l : Byte) :
    validate (wireFrame p h l) =
      { status := if csumMatch (checksum p 0 p.length) h l then .ok else .csumFail
        reason := 0, vCalc := checksum p 0 p.length, rxHi := h, rxLo := l, payLen := p.length } := by
  have hpass : reasonMask (wireFrame p h l) = 0 := reasonMask_eq_zero_iff_wireFrame.mpr ⟨p, h, l, rfl⟩
  have hhi : fromEnd (wireFrame p h l) 4 = some h := fromEnd_append _ _ (by simp)
  have hlo : fromEnd (wireFrame p h l) 3 = some l := fromEnd_append _ _ (by simp)
  rw [validate, if_pos hpass, hhi, hlo]
  simp only [comparedVerdict, Option.getD_some, length_wireFrame, Nat.add_sub_cancel, checksum_wireFrame]

/-! ### A frame in progress and its last byte -/

/-- R22, R45: the framer is accumulating a frame, and `f` is what it holds of it. -/
structure FrameInProgress (s : State) (f : List Byte) : Prop where
  st : s.st = .payload
  len : s.len = f.length
  view : ViewHolds s f

/-- R107: one more byte of the frame, after the bytes it has. -/
theorem frameInProgress_append {s : State} {f : List Byte} (h : FrameInProgress s f) (b : Byte) :
    FrameInProgress (withByte (quiet s) s.len b) (f ++ [b]) := by
  refine ⟨rfl, by simp [h.len], ?_⟩
  intro i hi
  rw [withByte_buf, quiet_buf, memRead_memWrite, h.len]
  split
  · rename_i heq
    simp [heq]
  · rename_i hne
    rw [List.length_append, List.length_singleton] at hi
    have hlt : i < f.length := by omega
    rw [h.view i hlt, List.getElem?_append_left hlt]

/-- R106, R108: `<LF>` is stored after the frame, and the frame with it is emitted. No free value is taken. -/
theorem acceptByte_lf_of_frame {s : State} {f : List Byte} (h : FrameInProgress s f)
    (hroom : f.length < s.config.cap) :
    acceptByte asciiLf s =
      .next (toIdle
        (withEmission (withByte (quiet s) s.len asciiLf) (emissionOf (f ++ [asciiLf])) 0)) := by
  obtain ⟨-, hlen, hview⟩ := frameInProgress_append h asciiLf
  have hcap : (f ++ [asciiLf]).length ≤ (withByte (quiet s) s.len asciiLf).config.cap := by simpa using hroom
  obtain ⟨hbytes, hdraws⟩ := frameBytes_written hcap hview
  rw [acceptByte_eof classOf_lf h.st (h.len.symm ▸ hroom), emitFrame, hlen, hbytes, hdraws]
  rfl

/-- R107: operations that offer `DATA` bytes append their bytes to the frame while there is room. -/
theorem execAll_data {is : List Instr} {s : State} {f : List Byte}
    (his : ∀ i ∈ is, offersByte i = true ∧ classOf (encode i).bits = .data) (h : FrameInProgress s f)
    (hroom : f.length + is.length ≤ s.config.cap) :
    ∃ t, execAll is s = .next t ∧ FrameInProgress t (f ++ is.map (fun i => (encode i).bits)) ∧
      t.config = s.config := by
  induction is generalizing s f with
  | nil => exact ⟨s, rfl, by simpa using h, rfl⟩
  | cons i rest ih =>
    obtain ⟨⟨hi, hb⟩, hrest⟩ := List.forall_mem_cons.mp his
    rw [List.length_cons] at hroom
    have hexec : exec i s = .next (withByte (quiet s) s.len (encode i).bits) := by
      rw [exec_offersByte hi, acceptByte_data hb h.st (by rw [h.len]; omega)]
    obtain ⟨t, ht, hframe, hconfig⟩ := ih hrest (frameInProgress_append h (encode i).bits)
      (by simp only [List.length_append, List.length_singleton, withByte_config, quiet_config]; omega)
    exact ⟨t, by rw [execAll, hexec, andThen_of_next, ht], by simpa using hframe, hconfig⟩

theorem execAll_append (is js : List Instr) (s : State) :
    execAll (is ++ js) s = andThen (execAll is s) (execAll js) := by
  induction is generalizing s with
  | nil => rfl
  | cons i rest ih =>
    simp only [List.cons_append, execAll]
    cases exec i s with
    | next t => exact ih t
    | fault f => rfl
    | refused f => rfl

/-- R23, R152: with `$` at index 0, the frame in progress is `$` and what follows it. -/
theorem frameInProgress_of_payload {s : State} {p : List Byte} (h : FramerInv s) (hst : s.st = .payload)
    (hlen : s.len = p.length + 1) (hp : ∀ k < p.length, memRead s.buf (k + 1) = p[k]?) :
    FrameInProgress s (asciiDollar :: p) := by
  obtain ⟨-, -, -, hframe⟩ := h
  obtain ⟨-, -, hdollar, -⟩ := hframe hst
  refine ⟨hst, by simp [hlen], ?_⟩
  intro k hk
  cases k with
  | zero => exact hdollar
  | succ k => exact hp k (by simpa using hk)

/-- R62: a marker and two digits after the payload, `<CR>` and `<LF>`: the frame of the wire format is emitted. -/
theorem execAll_closing_operations {s : State} {p : List Byte} {hi lo : Instr} {h l : Nat}
    (hframe : FrameInProgress s (asciiDollar :: p)) (hroom : p.length + 6 ≤ s.config.cap)
    (fhi : (encode hi).format = .hexch) (flo : (encode lo).format = .hexch)
    (vhi : hexval (encode hi).bits = some h) (vlo : hexval (encode lo).bits = some l) :
    ∃ t, execAll [.mStar, hi, lo, .mCr, .mLf] s = .next t ∧ t.st = .idle ∧ t.len = 0 ∧
      t.emission = some (emissionOf (wireFrame p (encode hi).bits (encode lo).bits)) := by
  have hdata : ∀ i ∈ [.mStar, hi, lo, .mCr], offersByte i = true ∧ classOf (encode i).bits = .data := by
    simp only [List.forall_mem_cons, offersByte_iff, fhi, flo, classOf_of_hexval vhi, classOf_of_hexval vlo]
    simp [encode]
  have hroom' : (asciiDollar :: p).length + 4 < s.config.cap := by
    rw [List.length_cons]
    omega
  obtain ⟨v, hv, hbefore, hconfig⟩ := execAll_data hdata hframe hroom'.le
  rw [← hconfig] at hroom'
  have hlf : exec .mLf v = _ :=
    (exec_offersByte (by decide) v).trans
      (acceptByte_lf_of_frame hbefore (by rwa [List.length_append, List.length_map]))
  have hrun : execAll [.mStar, hi, lo, .mCr, .mLf] s = _ :=
    calc execAll ([.mStar, hi, lo, .mCr] ++ [.mLf]) s
      _ = andThen (execAll [.mStar, hi, lo, .mCr] s) (execAll [.mLf]) := execAll_append _ _ s
      _ = andThen (exec .mLf v) .next := by rw [hv]; rfl
      _ = _ := by rw [hlf, andThen_of_next]
  exact ⟨_, hrun, rfl, rfl, by simp [wireFrame, encode]⟩

/-! ### Two framers that agree -/

/-- R20, R44: two states in which the framer of the same build is in the same state. -/
structure SameFramer (s u : State) : Prop where
  config : s.config = u.config
  st : s.st = u.st
  len : s.len = u.len
  buf : s.buf = u.buf

theorem sameFramer_guard {s u : State} (h : SameFramer s u) :
    SameFramer (bufferFullGuard (quiet s)) (bufferFullGuard (quiet u)) := by
  obtain ⟨hconfig, hst, hlen, hbuf⟩ := h
  by_cases hfull : s.st = .payload ∧ s.len = s.config.cap
  · have hfull' : u.st = .payload ∧ u.len = u.config.cap := by rwa [← hst, ← hlen, ← hconfig]
    rw [guard_full (s := quiet s) hfull, guard_full (s := quiet u) hfull']
    exact ⟨hconfig, rfl, rfl, hbuf⟩
  · have hfull' : ¬(u.st = .payload ∧ u.len = u.config.cap) := by rwa [← hst, ← hlen, ← hconfig]
    rw [guard_notFull (s := quiet s) hfull, guard_notFull (s := quiet u) hfull']
    exact ⟨hconfig, hst, hlen, hbuf⟩

theorem sameFramer_withByte {s u : State} {i j : Nat} (h : SameFramer s u) (hij : i = j) (b : Byte) :
    SameFramer (withByte s i b) (withByte u j b) := by
  subst hij
  exact ⟨h.config, rfl, rfl, congrArg (memWrite · i b) h.buf⟩

theorem sameFramer_quiet {s u : State} (h : SameFramer s u) : SameFramer (quiet s) (quiet u) :=
  ⟨h.config, h.st, h.len, h.buf⟩

theorem frameInProgress_sameFramer {s u : State} {f : List Byte} (h : SameFramer s u) (hf : FrameInProgress s f) :
    FrameInProgress u f :=
  ⟨h.st.symm.trans hf.st, h.len.symm.trans hf.len, by rw [ViewHolds, ← h.buf]; exact hf.view⟩

theorem SameFramer.symm {s u : State} (h : SameFramer s u) : SameFramer u s :=
  ⟨h.config.symm, h.st.symm, h.len.symm, h.buf.symm⟩

theorem SameFramer.trans {s t u : State} (h : SameFramer s t) (h' : SameFramer t u) : SameFramer s u :=
  ⟨h.config.trans h'.config, h.st.trans h'.st, h.len.trans h'.len, h.buf.trans h'.buf⟩

/-- R23 (ii), R102: where the guard leaves a frame in progress, the buffer has room. -/
theorem lt_of_guard_payload {s : State} (h : FramerInv s) (hg : (bufferFullGuard (quiet s)).st = .payload) :
    s.len < s.config.cap := by
  obtain ⟨-, -, -, hframe⟩ := h
  have hst : s.st = .payload := by rwa [guard_of_payload hg] at hg
  obtain ⟨-, hle, -⟩ := hframe hst
  refine lt_of_le_of_ne hle (fun hfull => ?_)
  rw [guard_full (s := quiet s) ⟨hst, hfull⟩] at hg
  cases hg

/-- R23: in a state of R23 a frame in progress is what the validator would read. -/
theorem frameInProgress_frameBytes {s : State} (h : FramerInv s) (hst : s.st = .payload) :
    FrameInProgress s (frameBytes s s.len) :=
  ⟨hst, (length_frameBytes s s.len).symm, viewHolds_frameBytes (definedByte_of_frame h hst)⟩

theorem guard_quiet_emission (s : State) : (bufferFullGuard (quiet s)).emission = none := by
  obtain ⟨-, -, -, -, hemission, -⟩ := guard_keeps (quiet s)
  exact hemission

/-- R100, R23: framers that agree still agree after a byte, and emit the same: a frame of R23 was written whole, so that
no free value is in it. -/
theorem acceptByte_sameFramer {s u : State} (b : Byte) (h : FramerInv s) (hsame : SameFramer s u) :
    ∃ t v, acceptByte b s = .next t ∧ acceptByte b u = .next v ∧ SameFramer t v ∧ t.emission = v.emission := by
  have hguard := sameFramer_guard hsame
  have hquiet := (guard_quiet_emission s).trans (guard_quiet_emission u).symm
  have hcap : 0 < s.config.cap := cap_pos_of_legal h.1
  by_cases hsof : classOf b = .sof
  · exact ⟨_, _, acceptByte_sof hsof hcap, acceptByte_sof hsof (hsame.config ▸ hcap),
      sameFramer_withByte hguard rfl b, hquiet⟩
  cases hg : (bufferFullGuard (quiet s)).st with
  | idle =>
    exact ⟨_, _, acceptByte_idle hsof hg, acceptByte_idle hsof (hguard.st ▸ hg), hguard, hquiet⟩
  | payload =>
    have hst : s.st = .payload := by rwa [guard_of_payload hg] at hg
    have hframe := frameInProgress_frameBytes h hst
    have hroom : s.len < s.config.cap := lt_of_guard_payload h hg
    have hu : u.st = .payload := hsame.st ▸ hst
    have hroomu : u.len < u.config.cap := hsame.len ▸ hsame.config ▸ hroom
    have happend := sameFramer_withByte (sameFramer_quiet hsame) hsame.len b
    cases hb : classOf b with
    | sof => exact absurd hb hsof
    | data => exact ⟨_, _, acceptByte_data hb hst hroom, acceptByte_data hb hu hroomu, happend, rfl⟩
    | eof =>
      obtain rfl := classOf_eof.mp hb
      have hframeu := frameInProgress_sameFramer hsame hframe
      exact ⟨_, _, acceptByte_lf_of_frame hframe (hframe.len ▸ hroom),
        acceptByte_lf_of_frame hframeu (hframeu.len ▸ hroomu), ⟨happend.config, rfl, rfl, happend.buf⟩, rfl⟩

/-! ### Steps beside each other -/

theorem requestPart_sameFramer {q : Option AngleReq} {v t : State} (h : requestPart q v = .next t) :
    SameFramer v t ∧ t.emission = v.emission ∧ t.pending = v.pending := by
  obtain ⟨hconfig, hst, hlen, hbuf, hpending, -, hemission, -, -⟩ := requestPart_keeps h
  exact ⟨⟨hconfig.symm, hst.symm, hlen.symm, hbuf.symm⟩, hemission, hpending⟩

/-- R101: a step without a byte leaves the framer as it was, whatever is read and asked of U4. -/
theorem step_without_byte {s : State} {c : ClockCycle} {rest : List ClockCycle} (hlegal : s.config.legal = true)
    (hp : s.pending = c :: rest) (hr : c.rst = false) (hv : c.inValid = false) :
    ∃ t, step s = .next t ∧ SameFramer s t ∧ t.emission = none ∧ t.pending = rest := by
  obtain ⟨hnext, -⟩ := beginCycle_cons hp
  have hexec : exec (framerInstr (nextCycle s)) (beginCycle s) = .next (quiet (beginCycle s)) := by
    rw [hnext, framerInstr_of_no_byte hr hv]
    rfl
  obtain ⟨t, ht⟩ := requestPart_next (nextCycle s).angle (quiet (beginCycle s))
  obtain ⟨hsame, hemission, hpending⟩ := requestPart_sameFramer ht
  exact ⟨t, (step_of_exec hlegal hexec).trans ht, ⟨hsame.config, hsame.st, hsame.len, hsame.buf⟩, hemission,
    hpending.trans (by simp [hp])⟩

/-- R100: a step that offers a byte is the byte's, and what is asked of U4 leaves that as it is. -/
theorem step_of_acceptByte {s v : State} {c : ClockCycle} {rest : List ClockCycle} (hlegal : s.config.legal = true)
    (hp : s.pending = c :: rest) (hr : c.rst = false) (hv : c.inValid = true)
    (h : acceptByte c.inData (beginCycle s) = .next v) :
    ∃ t, step s = .next t ∧ SameFramer v t ∧ t.emission = v.emission ∧ t.pending = rest := by
  obtain ⟨hnext, -⟩ := beginCycle_cons hp
  have hexec : exec (framerInstr (nextCycle s)) (beginCycle s) = .next v := by
    rw [hnext, exec_framerInstr_of_byte hr hv, h]
  obtain ⟨t, ht⟩ := requestPart_next (nextCycle s).angle v
  obtain ⟨hsame, hemission, hpending⟩ := requestPart_sameFramer ht
  obtain ⟨-, hkept, -⟩ := acceptByte_keeps h
  refine ⟨t, (step_of_exec hlegal hexec).trans ht, hsame, hemission, ?_⟩
  rw [hpending, hkept, beginCycle_pending, hp, List.tail_cons]

/-- R74: two framers that agree take the same byte alike, whatever else their steps carry. -/
theorem step_sameFramer {s u : State} {c d : ClockCycle} {cs ds : List ClockCycle} (h : FramerInv s)
    (hsame : SameFramer s u) (hs : s.pending = c :: cs) (hu : u.pending = d :: ds) (hrc : c.rst = false)
    (hvc : c.inValid = true) (hrd : d.rst = false) (hvd : d.inValid = true) (hb : d.inData = c.inData) :
    ∃ t v, step s = .next t ∧ step u = .next v ∧ SameFramer t v ∧ t.emission = v.emission ∧ t.pending = cs ∧
      v.pending = ds := by
  obtain ⟨t, v, ht, hv, htv, hemission⟩ := acceptByte_sameFramer (s := beginCycle s) (u := beginCycle u) c.inData
    (framerInv_beginCycle h) ⟨hsame.config, hsame.st, hsame.len, hsame.buf⟩
  obtain ⟨t', ht', hstept, het, hpt⟩ := step_of_acceptByte h.1 hs hrc hvc ht
  obtain ⟨v', hv', hstepv, hev, hpv⟩ := step_of_acceptByte (hsame.config ▸ h.1) hu hrd hvd (hb ▸ hv)
  exact ⟨t', v', ht', hv', (hstept.symm.trans htv).trans hstepv, by rw [het, hev, hemission], hpt, hpv⟩

/-! ### Runs beside each other -/

/-- R7: `k` steps from `s` and `n` from `u` emit the same frames in the same order and end with framers that agree. -/
def RunAlike (k : Nat) (s : State) (n : Nat) (u : State) : Prop :=
  (emissions k s).filterMap id = (emissions n u).filterMap id ∧
    ∃ t v, runSteps k s = .next t ∧ runSteps n u = .next v ∧ SameFramer t v

theorem emissions_of_step {s t : State} (h : step s = .next t) (k : Nat) :
    emissions (k + 1) s = t.emission :: emissions k t := by
  simp only [emissions, h]

theorem runSteps_of_step {s t : State} (h : step s = .next t) (k : Nat) : runSteps (k + 1) s = runSteps k t := by
  rw [runSteps, h, andThen_of_next]

/-- A silent step on one side keeps two runs alike. -/
theorem runAlike_silent {s t u : State} {k n : Nat} (h : step s = .next t) (hsilent : t.emission = none)
    (hrun : RunAlike k t n u) : RunAlike (k + 1) s n u := by
  rw [RunAlike, emissions_of_step h, runSteps_of_step h, hsilent]
  exact hrun

/-- A step on each side that emits the same keeps two runs alike. -/
theorem runAlike_both {s t u v : State} {k n : Nat} (hs : step s = .next t) (hu : step u = .next v)
    (hemission : t.emission = v.emission) (hrun : RunAlike k t n v) : RunAlike (k + 1) s (n + 1) u := by
  rw [RunAlike, emissions_of_step hs, emissions_of_step hu, runSteps_of_step hs, runSteps_of_step hu, hemission,
    List.filterMap_cons, List.filterMap_cons, hrun.1]
  exact ⟨rfl, hrun.2⟩

/-- R74: steps without reset run as the bytes they offer, one a step. -/
theorem runAlike_bytes_alone {cs : List ClockCycle} {s u : State} (h : FramerInv s) (hsame : SameFramer s u)
    (hr : ∀ c ∈ cs, c.rst = false) (hs : s.pending = cs)
    (hu : u.pending = (cs.filter (·.inValid)).map (fun c => offerByte c.inData)) :
    RunAlike cs.length s (cs.filter (·.inValid)).length u := by
  induction cs generalizing s u with
  | nil => exact ⟨rfl, s, u, rfl, rfl, hsame⟩
  | cons c rest ih =>
    obtain ⟨hrc, hrest⟩ := List.forall_mem_cons.mp hr
    cases hv : c.inValid with
    | false =>
      rw [List.filter_cons_of_neg (by simp [hv])] at hu ⊢
      obtain ⟨t, ht, hst, hsilent, hpending⟩ := step_without_byte h.1 hs hrc hv
      exact runAlike_silent ht hsilent
        (ih (stepKeepsTheFramerInvariants s t h ht) (hst.symm.trans hsame) hrest hpending hu)
    | true =>
      rw [List.filter_cons_of_pos hv] at hu ⊢
      obtain ⟨t, v, ht, hv', htv, hemission, hpt, hpv⟩ := step_sameFramer h hsame hs hu hrc hv rfl rfl rfl
      exact runAlike_both ht hv' hemission (ih (stepKeepsTheFramerInvariants s t h ht) htv hrest hpt hpv)

/-! ### The host's placement of a table word -/

theorem decode_of_decodeTableWord {nbits w : Nat} {i : Instr} (h : decodeTableWord nbits w = some i) :
    decode (tableWord nbits w) = .ok i := by
  unfold decodeTableWord at h
  split at h
  · rename_i j hj
    cases h
    exact hj
  · cases h

theorem asksAngle_iff {i : Instr} : asksAngle i = true ↔ (encode i).format = .hemi ∨ (encode i).format = .aop := by
  simp [asksAngle]

/-- The state whose next step presents a word at its place. -/
def placed (s : State) (w : TableWord) : State := { s with pending := cycleOfWord s.angIn w :: s.pending }

/-- The start of the step that presents a word: a letter is on `ang_hemi`, and nothing is read. -/
def presented (s : State) (w : TableWord) : State :=
  { s with
    angIn := if w.format = .hemi then { s.angIn with hemi := w.bits } else s.angIn
    rdData := none, angOut := none, angRefusal := none }

theorem beginCycle_placed (s : State) (w : TableWord) : beginCycle (placed s w) = presented s w := by
  obtain ⟨format, bits⟩ := w
  cases format <;> rfl

theorem step_placed {s : State} (hlegal : s.config.legal = true) (w : TableWord) :
    step (placed s w) =
      andThen (exec (framerInstr (cycleOfWord s.angIn w)) (presented s w))
        (requestPart (cycleOfWord s.angIn w).angle) := by
  rw [step_legal (s := placed s w) hlegal, runCycle_eq, beginCycle_placed]
  rfl

/-- R66: a word of the framer's places stands on the framer's inputs as it is, without a request. -/
theorem framerWord_cycleOfWord {p : AngleIn} {w : TableWord} (hwidth : w.bits.toNat < 2 ^ w.format.width)
    (hplace : ¬(w.format = .hemi ∨ w.format = .aop)) :
    framerWord (cycleOfWord p w) = w ∧ (cycleOfWord p w).angle = none := by
  obtain ⟨format, bits⟩ := w
  cases format with
  | ctrl =>
    have hbit : bits = 0#8 ∨ bits = 1#8 := by
      simp only [Format.width] at hwidth
      bv_omega
    rcases hbit with rfl | rfl <;> exact ⟨rfl, rfl⟩
  | byte | mark | hexch => exact ⟨rfl, rfl⟩
  | hemi | aop => simp at hplace

/-- R66: a word of U4's places stands in a request, beside an idle framer. -/
theorem angleWord_cycleOfWord {p : AngleIn} {w : TableWord} (hwidth : w.bits.toNat < 2 ^ w.format.width)
    (hplace : w.format = .hemi ∨ w.format = .aop) :
    framerInstr (cycleOfWord p w) = .idleStep ∧ ∃ r, (cycleOfWord p w).angle = some r ∧ angleWord r = w := by
  obtain ⟨format, bits⟩ := w
  rcases hplace with rfl | rfl
  · exact ⟨framerInstr_of_no_byte rfl rfl, _, rfl, rfl⟩
  · refine ⟨framerInstr_of_no_byte rfl rfl, _, rfl, ?_⟩
    have hcode : (bits.setWidth 3).setWidth 8 = bits := by
      simp only [Format.width] at hwidth
      bv_omega
    simp [angleWord, hcode]

theorem andThen_requestPart_none (r : Result) : andThen r (requestPart none) = r := by
  cases r <;> rfl

/-- R101: a word of the framer is run alone. -/
theorem step_placed_framer {s : State} {w : TableWord} {i : Instr} (hlegal : s.config.legal = true)
    (hdecode : decode w = .ok i) (hplace : ¬(w.format = .hemi ∨ w.format = .aop)) :
    step (placed s w) = exec i (presented s w) := by
  obtain ⟨hwidth, -⟩ := exists_row_of_decode hdecode
  obtain ⟨hword, hnone⟩ := framerWord_cycleOfWord (p := s.angIn) hwidth hplace
  rw [step_placed hlegal, framerInstr_of_decode (hword.symm ▸ hdecode), hnone, andThen_requestPart_none]

/-- R69: a word of U4 is run beside an idle framer, and its refusal is kept. -/
theorem step_placed_angle {s : State} {w : TableWord} {i : Instr} (hlegal : s.config.legal = true)
    (hdecode : decode w = .ok i) (hplace : w.format = .hemi ∨ w.format = .aop) :
    step (placed s w) = settleRequest (quiet (presented s w)) (exec i (quiet (presented s w))) := by
  obtain ⟨hwidth, -⟩ := exists_row_of_decode hdecode
  obtain ⟨hidle, r, hreq, hword⟩ := angleWord_cycleOfWord (p := s.angIn) hwidth hplace
  have hinstr : angleInstr r = i := angleInstr_of_decode (hword.symm ▸ hdecode)
  have hexec : exec .idleStep (presented s w) = .next (quiet (presented s w)) := rfl
  rw [step_placed hlegal, hidle, hreq, hexec, andThen_of_next, requestPart, hinstr]

/-! ### The statements of 30_encoding.md -/

/-- Settles O1, constructor by constructor. -/
theorem decodeOfEncodeGivesTheOperation : Obligations.DecodeOfEncodeGivesTheOperation := fun _ => decode_encode

/-- Settles O2, by the row the word is in. -/
theorem decodedOperationEncodesToItsWord : Obligations.DecodedOperationEncodesToItsWord := fun _ _ => encode_of_decode

/-- Settles O3: the classes by their equations, the cover by evaluation on the 256 bytes. -/
theorem framerClassesCoverEveryByteOnce : Obligations.FramerClassesCoverEveryByteOnce :=
  ⟨fun _ => classOf_sof, fun _ => classOf_eof, fun _ => classOf_data, byte_rows_cover_once, decode_byte⟩

/-- Settles O4: each of the words is the encoding of its operation. -/
theorem writtenOutWordsDecode : Obligations.WrittenOutWordsDecode :=
  ⟨decode_encode (i := .reset) rfl, decode_encode (i := .idleStep) rfl, decode_encode (i := .sof) rfl,
    decode_encode (i := .eof) rfl, decode_encode (i := .data 0x47#8) rfl, decode_encode (i := .mStar) rfl,
    decode_encode (i := .hexLowerA) rfl, decode_encode (i := .hemiUpperW) rfl, decode_encode (i := .dms2deg) rfl,
    decode_encode (i := .aopRsvd) rfl⟩

/-- Settles O5: the rows of each place are compared with the place's function on every byte. -/
theorem characterRowsAreTheCharacterFunctions : Obligations.CharacterRowsAreTheCharacterFunctions := by
  refine ⟨fun b => ?_, fun b => ?_, fun b => ?_, rfl, rfl, rfl, rfl, rfl, rfl⟩
  · exact (exists_decode_iff (by decide) b).trans (mem_patternsOf_hexch b)
  · exact (exists_decode_iff (by decide) b).trans (mem_patternsOf_hemi b)
  · rw [exists_decode_iff (by decide), patternsOf_mark]
    simp

/-- Settles O6, range by range. -/
theorem hexvalByRanges : Obligations.HexvalByRanges := fun _ =>
  ⟨hexval_of_digit, hexval_of_upper, hexval_of_lower, fun ⟨hdigit, hupper, hlower⟩ =>
    hexval_of_not_hex hdigit hupper hlower⟩

/-- Settles O7: both digits of a byte are below 16, and the value is `16` times the high one and the low one. -/
theorem spelledChecksumIsReadBack : Obligations.SpelledChecksumIsReadBack := by
  intro v
  obtain ⟨hhi, uhi⟩ := hexchar_spells (v.toNat / 16) (by omega)
  obtain ⟨hlo, ulo⟩ := hexchar_spells (v.toNat % 16) (by omega)
  refine ⟨?_, hhi, hlo, uhi, ulo⟩
  rw [hex2, receivedChecksum_of_hexval hhi hlo, Nat.div_add_mod]

/-- Settles O25: the two runs start with one framer, and stay alike step by step. -/
theorem idleStepsBetweenBytesChangeNothing : Obligations.IdleStepsBetweenBytesChangeNothing := by
  intro s cs h hr
  have hrun : RunAlike cs.length { s with pending := cs } (cs.filter (fun c => c.inValid)).length
      (withProgram s ((cs.filter (fun c => c.inValid)).map (fun c => c.inData))) :=
    runAlike_bytes_alone h ⟨rfl, rfl, rfl, rfl⟩ hr rfl List.map_map
  obtain ⟨hemissions, t, u, ht, hu, hsame⟩ := hrun
  exact ⟨hemissions, t, u, ht, hu, hsame.st, hsame.len, hsame.buf⟩

/-- Settles O27: the frame is `$`, the payload and the five bytes, and the validator reads it by its wire format. -/
theorem markersAndDigitsCloseASentence : Obligations.MarkersAndDigitsCloseASentence := by
  intro s p hi lo h l hinv hst hlen hp hroom fhi flo vhi vlo
  obtain ⟨t, ht, hidle, hzero, hemission⟩ :=
    execAll_closing_operations (frameInProgress_of_payload hinv hst hlen hp) (by omega) fhi flo vhi vlo
  have hmatch : csumMatch (checksum p 0 p.length) (encode hi).bits (encode lo).bits = true ↔
      16 * h + l = (checksum p 0 p.length).toNat := by
    simp [csumMatch, receivedChecksum_of_hexval vhi vlo]
  refine ⟨t, _, ht, hemission, hidle, hzero, length_wireFrame .., rfl, ?_⟩
  simp only [emissionOf, validate_wireFrame, true_and]
  constructor
  · rw [← hmatch]
    split <;> simp_all
  · rw [ne_eq, ← hmatch]
    split <;> simp_all

/-- Settles O39: the checks say what the first byte and the last five are, and the rest is the payload. -/
theorem passingFramesHaveTheWireFormat : Obligations.PassingFramesHaveTheWireFormat := by
  intro f
  rw [validate_reason]
  exact ⟨reasonMask_eq_zero_iff_wireFrame, six_le_length_of_reasonMask⟩

/-- Settles O53: the arm of the reserved code is the refusal. -/
theorem reservedAngleOperationIsRefused : Obligations.ReservedAngleOperationIsRefused := fun _ => rfl

/-- Settles O56: every operation that offers a byte is `acceptByte` of it, and so is the byte of a cycle by any name. -/
theorem byteNamesHaveNoEffect : Obligations.ByteNamesHaveNoEffect := by
  constructor
  · intro i s h
    rw [exec_offersByte h, exec_offersByte (offersByte_decodeByte _), encode_bits_decodeByte]
  · intro s c rest n
    have hcycle : runCycle { s with pending := c :: rest } =
        runCycle { s with pending := { c with inName := n } :: rest } :=
      congrArg (andThen · (requestPart c.angle))
        (exec_framerInstr_congr (c := { c with inName := n }) (d := c) rfl rfl rfl _)
    simp only [step, guardedCycle, hcycle]

/-- Settles O60: the word stands at its place in the next cycle, so the cycle decodes to the word's operation. -/
theorem placedTableWordRunsNext : Obligations.PlacedTableWordRunsNext := by
  intro s nbits w i hlegal hi
  have hdecode := decode_of_decodeTableWord hi
  obtain ⟨-, henc⟩ := encode_of_decode hdecode
  have hstep : step (s.withFetchWord nbits w) = step (placed s (tableWord nbits w)) := rfl
  rw [hstep, henc]
  constructor
  · intro hask
    have hplace : ¬((tableWord nbits w).format = .hemi ∨ (tableWord nbits w).format = .aop) := by
      rw [← henc, ← asksAngle_iff, hask]
      decide
    have hports : (tableWord nbits w).format ≠ .hemi := fun h => hplace (.inl h)
    rw [step_placed_framer hlegal hdecode hplace, presented, if_neg hports]
  · rintro u hask rfl
    have hplace : (tableWord nbits w).format = .hemi ∨ (tableWord nbits w).format = .aop := by
      rwa [← henc, ← asksAngle_iff]
    rw [step_placed_angle hlegal hdecode hplace]
    constructor
    · intro t ht
      exact congrArg (settleRequest _) ht
    · intro f hf
      exact congrArg (settleRequest _) hf

end Sys2Proof.Machine

/-! SUPPORT. The statements of 40_framer.md: what each byte does in `IDLE`, in `PAYLOAD` and on a full buffer, what a
frame that is emitted looks like, and runs of bytes. -/

namespace Sys2Proof.Machine

/-! ### A byte by its class -/

/-- R105: a `$` is stored at index 0 whether or not the guard fired before it. -/
@[simp] theorem withByte_guard (s : State) (i : Nat) (b : Byte) :
    withByte (bufferFullGuard s) i b = withByte s i b := by
  by_cases hfull : s.st = .payload ∧ s.len = s.config.cap
  · rw [guard_full hfull]
    rfl
  · rw [guard_notFull hfull]

/-- R103, R105: a `$` starts a frame in every state. -/
theorem acceptByte_dollar {s : State} (hcap : 0 < s.config.cap) :
    acceptByte asciiDollar s = .next (withByte (quiet s) 0 asciiDollar) := by
  rw [acceptByte_sof classOf_dollar hcap, withByte_guard]

theorem exec_dollar {i : Instr} {s : State} (hi : i = .sof ∨ i = .mDollar) (hcap : 0 < s.config.cap) :
    exec i s = .next (withByte (quiet s) 0 asciiDollar) := by
  rcases hi with rfl | rfl <;> exact acceptByte_dollar hcap

/-- R102: on a full buffer any byte but `$` is discarded, and the frame with it. -/
theorem acceptByte_full {b : Byte} {s : State} (hb : b ≠ asciiDollar)
    (hfull : s.st = .payload ∧ s.len = s.config.cap) : acceptByte b s = .next (toIdle (quiet s)) := by
  have hguard : bufferFullGuard (quiet s) = toIdle (quiet s) := guard_full hfull
  rw [acceptByte_idle (mt classOf_sof.mp hb) (by rw [hguard, toIdle_st]), hguard]

/-! ### What is emitted -/

/-- R62, R110: a payload between `$` and `<LF>`. -/
def sentence (p : List Byte) : List Byte := [asciiDollar] ++ p ++ [asciiLf]

@[simp] theorem length_sentence (p : List Byte) : (sentence p).length = p.length + 2 := by
  simp [sentence]

theorem sentence_first (p : List Byte) : (sentence p)[0]? = some asciiDollar := rfl

theorem sentence_last (p : List Byte) : (sentence p)[p.length + 1]? = some asciiLf := by
  simp [sentence]

theorem sentence_middle {p : List Byte} {k : Nat} (h : k < p.length) : (sentence p)[k + 1]? = some p[k] := by
  simp [sentence, List.getElem?_append_left h, h]

/-- R152: a sentence has its start marker. -/
theorem noStart_sentence (p : List Byte) : noStart (sentence p) = false := by
  simp [noStart, sentence]

/-- R153: a sentence has its `<LF>`, so that only a `<CR>` can be missing. -/
theorem noTerm_sentence (p : List Byte) : noTerm (sentence p) = true ↔ (sentence p)[p.length]? ≠ some asciiCr := by
  have hlf : fromEnd (sentence p) 1 = some asciiLf := fromEnd_append _ _ (by simp)
  have hcr : fromEnd (sentence p) 2 = (sentence p)[p.length]? := by simp [fromEnd]
  simp [noTerm, hlf, hcr]

/-- R23 (iii), (iv): the frame in progress is a `$` and bytes that are neither `$` nor `<LF>`. -/
theorem exists_payload_of_frame {s : State} {f : List Byte} (h : FramerInv s) (hf : FrameInProgress s f) :
    ∃ p, f = asciiDollar :: p ∧ ∀ b ∈ p, classOf b = .data := by
  obtain ⟨hst, hlen, hview⟩ := hf
  obtain ⟨-, -, -, hframe⟩ := h
  obtain ⟨hpos, -, hdollar, hplain⟩ := hframe hst
  cases f with
  | nil => simp [hlen] at hpos
  | cons d p =>
    have hd : some d = some asciiDollar := (hview 0 (by simp)).symm.trans hdollar
    obtain rfl := Option.some.inj hd
    refine ⟨p, rfl, fun b hb => ?_⟩
    obtain ⟨k, hk, rfl⟩ := List.getElem_of_mem hb
    have hread : memRead s.buf (k + 1) = some p[k] := by
      rw [hview (k + 1) (by simpa using hk), List.getElem?_cons_succ, List.getElem?_eq_getElem hk]
    have hbyte := hplain (k + 1) (by simpa [hlen] using hk) (by omega)
    rw [hread] at hbyte
    exact of_decide_eq_true hbyte

/-- R106, R108: only an `<LF>` emits, and what it emits is the frame in progress with it. -/
theorem frame_of_acceptByte_emission {b : Byte} {s t : State} {e : Emission} (h : FramerInv s)
    (ht : acceptByte b s = .next t) (he : t.emission = some e) :
    b = asciiLf ∧ ∃ f, FrameInProgress s f ∧ f.length < s.config.cap ∧ e = emissionOf (f ++ [asciiLf]) := by
  rcases acceptByte_cases ht with ⟨-, -, hv⟩ | ⟨-, -, hv⟩ | ⟨hg, hb, -, -⟩ | ⟨-, -, -, hv⟩
  · simp [hv, guard_quiet_emission] at he
  · simp [hv] at he
  · obtain rfl := classOf_eof.mp hb
    have hst : s.st = .payload := by rwa [guard_of_payload hg] at hg
    have hframe := frameInProgress_frameBytes h hst
    have hroom : (frameBytes s s.len).length < s.config.cap := hframe.len ▸ lt_of_guard_payload h hg
    cases (acceptByte_lf_of_frame hframe hroom).symm.trans ht
    exact ⟨rfl, _, hframe, hroom, (Option.some.inj he).symm⟩
  · simp [hv] at he

/-- R109: a step emits a sentence that fits the buffer, or nothing. -/
theorem sentence_of_step_emission {s t : State} {e : Emission} (h : FramerInv s) (hstep : step s = .next t)
    (he : t.emission = some e) :
    ∃ p, e = emissionOf (sentence p) ∧ p.length + 2 ≤ s.config.cap ∧ ∀ b ∈ p, classOf b = .data := by
  obtain ⟨v, ht, hv⟩ := step_cases hstep
  obtain ⟨-, hemission, -⟩ := requestPart_sameFramer ht
  rw [hemission] at he
  rcases hv with rfl | rfl | ⟨-, -, hv⟩
  · cases he
  · cases he
  · have hbegin := framerInv_beginCycle h
    obtain ⟨-, f, hframe, hroom, rfl⟩ := frame_of_acceptByte_emission hbegin hv he
    obtain ⟨p, rfl, hp⟩ := exists_payload_of_frame hbegin hframe
    exact ⟨p, rfl, hroom, hp⟩

/-! ### Runs of bytes -/

/-- R7: steps from `s` to `t`, and what each of them emits. -/
inductive RunEmits : State → List (Option Emission) → State → Prop where
  | nil (s : State) : RunEmits s [] s
  | cons {s u t : State} {es : List (Option Emission)} :
      step s = .next u → RunEmits u es t → RunEmits s (u.emission :: es) t

theorem RunEmits.append {s u t : State} {es fs : List (Option Emission)} (h : RunEmits s es u)
    (h' : RunEmits u fs t) : RunEmits s (es ++ fs) t := by
  induction h with
  | nil => exact h'
  | cons hstep _ ih => exact .cons hstep (ih h')

theorem RunEmits.emissions_eq {s t : State} {es : List (Option Emission)} (h : RunEmits s es t) :
    emissions es.length s = es := by
  induction h with
  | nil => rfl
  | cons hstep _ ih => rw [List.length_cons, emissions_of_step hstep, ih]

theorem RunEmits.runSteps_eq {s t : State} {es : List (Option Emission)} (h : RunEmits s es t) :
    runSteps es.length s = .next t := by
  induction h with
  | nil => rfl
  | cons hstep _ ih => rw [List.length_cons, runSteps_of_step hstep, ih]

theorem sameFramer_beginCycle (s : State) : SameFramer s (beginCycle s) := ⟨rfl, rfl, rfl, rfl⟩

theorem framerInv_sameFramer {s u : State} (h : SameFramer s u) (hs : FramerInv s) : FramerInv u :=
  framerInv_of_eq hs h.config.symm h.st.symm h.len.symm h.buf.symm

/-- R74: the step of an offered byte emits what the byte does and leaves the framer where the byte does. -/
theorem runEmits_byte {s v : State} {b : Byte} {rest : List ClockCycle} (hlegal : s.config.legal = true)
    (hp : s.pending = offerByte b :: rest) (h : acceptByte b (beginCycle s) = .next v) :
    ∃ t, RunEmits s [v.emission] t ∧ SameFramer v t ∧ t.pending = rest := by
  obtain ⟨t, ht, hsame, hemission, hpending⟩ := step_of_acceptByte hlegal hp rfl rfl h
  exact ⟨t, hemission ▸ .cons ht (.nil t), hsame, hpending⟩

/-- R29: a byte is taken in every state of R23. -/
theorem acceptByte_of_framerInv {s : State} (h : FramerInv s) (b : Byte) :
    ∃ t, acceptByte b s = .next t ∧ FramerInv t := by
  have hexec := everyByteIsAccepted (decodeByte b) s (offersByte_decodeByte b) h
  rwa [exec_offersByte (offersByte_decodeByte b), encode_bits_decodeByte] at hexec

/-- R111, R112: bytes whatever are taken one a step, R23 is kept, and without an `<LF>` among them nothing is
emitted. -/
theorem runEmits_bytes {bs : List Byte} {s : State} {rest : List ClockCycle} (h : FramerInv s)
    (hp : s.pending = bs.map offerByte ++ rest) :
    ∃ es t, RunEmits s es t ∧ es.length = bs.length ∧ FramerInv t ∧ t.config = s.config ∧ t.pending = rest ∧
      ((∀ b ∈ bs, b ≠ asciiLf) → es = List.replicate bs.length none) := by
  induction bs generalizing s with
  | nil => exact ⟨[], s, .nil s, rfl, h, rfl, hp, fun _ => rfl⟩
  | cons b bs ih =>
    have hbegin := framerInv_beginCycle h
    obtain ⟨v, hv, hinv⟩ := acceptByte_of_framerInv hbegin b
    obtain ⟨hconfig, -⟩ := acceptByte_keeps hv
    obtain ⟨u, hu, hsame, hpu⟩ := runEmits_byte h.1 hp hv
    obtain ⟨es, t, hrun, hlen, ht, hct, hpt, hsilent⟩ := ih (framerInv_sameFramer hsame hinv) hpu
    refine ⟨v.emission :: es, t, hu.append hrun, by simp [hlen], ht,
      (hct.trans hsame.config.symm).trans hconfig, hpt, fun hno => ?_⟩
    obtain ⟨hb, hbs⟩ := List.forall_mem_cons.mp hno
    have hnone : v.emission = none :=
      Option.eq_none_iff_forall_ne_some.mpr fun e he => hb (frame_of_acceptByte_emission hbegin hv he).1
    rw [hnone, hsilent hbs, List.length_cons, List.replicate_succ]

/-- R103, R105: a `$` is a frame in progress, whatever came before it. -/
theorem frameInProgress_start (s : State) : FrameInProgress (withByte (quiet s) 0 asciiDollar) [asciiDollar] := by
  refine ⟨rfl, rfl, fun i hi => ?_⟩
  obtain rfl : i = 0 := by simpa using hi
  exact memRead_memWrite_same s.buf 0 asciiDollar

/-- R107: `DATA` bytes that fit are appended to the frame in progress, one a step, and nothing is emitted. -/
theorem runEmits_data {p f : List Byte} {s : State} {rest : List ClockCycle} (hlegal : s.config.legal = true)
    (hf : FrameInProgress s f) (hdata : ∀ b ∈ p, classOf b = .data) (hroom : f.length + p.length ≤ s.config.cap)
    (hp : s.pending = p.map offerByte ++ rest) :
    ∃ t, RunEmits s (List.replicate p.length none) t ∧ FrameInProgress t (f ++ p) ∧ t.config = s.config ∧
      t.pending = rest := by
  induction p generalizing s f with
  | nil => exact ⟨s, .nil s, by simpa using hf, rfl, hp⟩
  | cons b p ih =>
    obtain ⟨hb, hbs⟩ := List.forall_mem_cons.mp hdata
    rw [List.length_cons] at hroom
    have hbegin := frameInProgress_sameFramer (sameFramer_beginCycle s) hf
    have hbyte := acceptByte_data hb hbegin.st (by rw [hbegin.len, beginCycle_config]; omega)
    obtain ⟨u, hu, hsame, hpu⟩ := runEmits_byte hlegal hp hbyte
    have hconfig : u.config = s.config := hsame.config.symm
    obtain ⟨t, hrun, hft, hct, hpt⟩ := ih (hconfig ▸ hlegal)
      (frameInProgress_sameFramer hsame (frameInProgress_append hbegin b)) hbs
      (by rw [List.length_append, List.length_singleton, hconfig]; omega) hpu
    exact ⟨t, hu.append hrun, by simpa using hft, hct.trans hconfig, hpt⟩

/-- R110: the `$` starts a frame wherever the framer is, the payload is appended, and the `<LF>` emits. -/
theorem runEmits_sentence {s : State} {p : List Byte} {rest : List ClockCycle} (hlegal : s.config.legal = true)
    (hdata : ∀ b ∈ p, classOf b = .data) (hroom : p.length + 2 ≤ s.config.cap)
    (hp : s.pending = (sentence p).map offerByte ++ rest) :
    ∃ t, RunEmits s (List.replicate (p.length + 1) none ++ [some (emissionOf (sentence p))]) t ∧ t.st = .idle ∧
      t.len = 0 := by
  have hbytes : s.pending = offerByte asciiDollar :: (p.map offerByte ++ (offerByte asciiLf :: rest)) := by
    simpa [sentence] using hp
  obtain ⟨u, hu, hsameu, hpu⟩ := runEmits_byte hlegal hbytes
    (acceptByte_dollar (s := beginCycle s) (cap_pos_of_legal hlegal))
  have hcu : u.config = s.config := hsameu.config.symm
  obtain ⟨v, hv, hfv, hcv, hpv⟩ := runEmits_data (hcu ▸ hlegal)
    (frameInProgress_sameFramer hsameu (frameInProgress_start _)) hdata
    (by rw [List.length_singleton, hcu]; omega) hpu
  have hbegin := frameInProgress_sameFramer (sameFramer_beginCycle v) hfv
  have hcv' : v.config = s.config := hcv.trans hcu
  obtain ⟨t, ht, hsamet, -⟩ := runEmits_byte (hcv' ▸ hlegal) hpv
    (acceptByte_lf_of_frame hbegin (by simp [hcv']; omega))
  exact ⟨t, hu.append (hv.append ht), hsamet.st.symm, hsamet.len.symm⟩

/-! ### The statements of 40_framer.md -/

/-- Settles O10: `IDLE_STEP` only clears the emission, and a step without a byte leaves the framer as it was. -/
theorem idleStepKeepsTheFramer : Obligations.IdleStepKeepsTheFramer := by
  refine ⟨fun _ => rfl, ?_⟩
  intro s c rest hlegal hp hr hv
  obtain ⟨t, ht, hsame, hemission, -⟩ := step_without_byte hlegal hp hr hv
  exact ⟨t, ht, hsame.st.symm, hsame.len.symm, hsame.buf.symm, hemission⟩

/-- Settles O11: a `$` starts a frame in every state, in `IDLE` too. -/
theorem dollarStartsAFrame : Obligations.DollarStartsAFrame := fun _ _ hi hcap _ => exec_dollar hi hcap

/-- Settles O12: the operation is its byte offered, which is discarded outside a frame. -/
theorem bytesOutsideAFrameAreDiscarded : Obligations.BytesOutsideAFrameAreDiscarded := fun _ s hi hb hst =>
  (exec_offersByte hi s).trans (acceptByte_outside_frame hb hst)

/-- Settles O13: a `$` starts a frame in every state, in `PAYLOAD` too. -/
theorem dollarRestartsTheFrame : Obligations.DollarRestartsTheFrame := fun _ _ hi hcap _ => exec_dollar hi hcap

/-- Settles O14: the guard fires, and the byte is a `$` or is discarded. -/
theorem fullBufferLosesTheFrameSilently : Obligations.FullBufferLosesTheFrameSilently := by
  intro i s hi hcap hst hlen
  rw [exec_offersByte hi]
  constructor
  · intro hb
    exact acceptByte_full hb ⟨hst, hlen⟩
  · intro hb
    rw [hb]
    exact acceptByte_dollar hcap

/-- Settles O15: the operation is its `DATA` byte offered, and the framer stays in `PAYLOAD`. -/
theorem dataByteIsAppended : Obligations.DataByteIsAppended := by
  intro i s hi hdollar hlf hst hroom
  rw [exec_offersByte hi, acceptByte_data (classOf_data.mpr ⟨hdollar, hlf⟩) hst hroom, withByte, ← hst]
  rfl

/-- Settles O16: `f` is the frame in progress, and the `<LF>` emits it. -/
theorem lineFeedEmitsTheFrame : Obligations.LineFeedEmitsTheFrame := by
  intro i s f hi hst hroom hlen hf
  have hframe : FrameInProgress s f := ⟨hst, hlen.symm, fun k hk => hf k (hlen ▸ hk)⟩
  have hexec : exec i s = acceptByte asciiLf s := by
    rcases hi with rfl | rfl <;> rfl
  rw [hexec, acceptByte_lf_of_frame hframe (hlen.symm ▸ hroom), emissionOf, List.length_append, hlen]
  rfl

/-- Settles O21: what is emitted is a sentence, and the statement's clauses are facts about a sentence. -/
theorem emittedFramesAreFramed : Obligations.EmittedFramesAreFramed := by
  intro s t e h hstep he
  obtain ⟨p, rfl, hcap, hdata⟩ := sentence_of_step_emission h hstep he
  have hn : (emissionOf (sentence p)).frmLen = p.length + 2 := length_sentence p
  rw [hn]
  refine ⟨hn.symm, by omega, hcap, sentence_first p, sentence_last p, ?_, rfl, noStart_sentence p,
    noTerm_sentence p⟩
  intro k hk1 hk
  obtain ⟨j, rfl⟩ : ∃ j, k = j + 1 := ⟨k - 1, by omega⟩
  have hj : j < p.length := by omega
  have hbyte := classOf_data.mp (hdata _ (List.getElem_mem hj))
  simpa [emissionOf, sentence_middle hj] using hbyte

/-- Settles O22: the sentence is run from the state it is loaded into. -/
theorem wholeSentenceGivesOneEmission : Obligations.WholeSentenceGivesOneEmission := by
  intro s p h hp hroom
  obtain ⟨t, hrun, hst, hlen⟩ := runEmits_sentence (s := withProgram s (sentence p)) (rest := []) h.1
    (fun b hb => classOf_data.mpr (hp b hb)) hroom (List.append_nil _).symm
  have hemissions := hrun.emissions_eq
  have hsteps := hrun.runSteps_eq
  simp only [List.length_append, List.length_replicate, List.length_singleton] at hemissions hsteps
  exact ⟨hemissions, t, hsteps, hst, hlen⟩

/-- Settles O23: a run of bytes without `<LF>` is silent. -/
theorem noLineFeedNoEmission : Obligations.NoLineFeedNoEmission := by
  intro s bs h hbs
  obtain ⟨es, t, hrun, hlen, -, -, -, hsilent⟩ :=
    runEmits_bytes (s := withProgram s bs) (rest := []) (framerInv_of_eq h rfl rfl rfl rfl) (List.append_nil _).symm
  rw [← hlen, hrun.emissions_eq, hsilent hbs, List.length_replicate]

/-- Settles O24: the bytes before leave a state of R23 in the same build, and the sentence is run from there. -/
theorem noBytesPreventALaterSentence : Obligations.NoBytesPreventALaterSentence := by
  intro s before p h hp hroom
  obtain ⟨es, u, hbefore, hlen, hinv, hconfig, hpending, -⟩ :=
    runEmits_bytes (s := withProgram s (before ++ sentence p)) (framerInv_of_eq h rfl rfl rfl rfl) List.map_append
  obtain ⟨t, hrun, -, -⟩ := runEmits_sentence (rest := []) hinv.1 (fun b hb => classOf_data.mpr (hp b hb))
    (hconfig ▸ hroom) (hpending.trans (List.append_nil _).symm)
  have hemissions := (hbefore.append hrun).emissions_eq
  simp only [List.length_append, List.length_replicate, List.length_singleton, hlen] at hemissions
  exact ⟨es, hlen, hemissions.trans (List.append_assoc ..).symm⟩

end Sys2Proof.Machine

/-! SUPPORT. The statements of 41_checksum.md: the fold of a range and of a concatenation, the compare by its two
digits, and the sentence that `wrap` makes. -/

namespace Sys2Proof.Machine

/-! ### The fold -/

/-- R130: taking `length` bytes is already clamped to the end. -/
theorem checksum_eq_take (bs : List Byte) (start length : Nat) :
    checksum bs start length = xorFold ((bs.drop start).take length) := by
  rw [checksum, ← List.length_drop, ← List.take_eq_take_min]

/-- R131: the fold of two parts. -/
@[simp] theorem xorFold_append (p q : List Byte) : xorFold (p ++ q) = xorFold p ^^^ xorFold q :=
  List.foldl_append.trans (foldl_xor q _)

/-- R133: the order of the bytes does not matter. -/
theorem xorFold_perm {p q : List Byte} (h : p.Perm q) : xorFold p = xorFold q := h.foldl_op_eq

/-- R133: what two folds share cancels out. -/
theorem xorFold_replace (p q : List Byte) (x y : Byte) :
    xorFold (p ++ x :: q) ^^^ xorFold (p ++ y :: q) = x ^^^ y := by
  have hfront (b : Byte) : xorFold (p ++ b :: q) = b ^^^ xorFold (p ++ q) := by
    rw [xorFold_perm List.perm_middle, xorFold_cons]
  rw [hfront, hfront, BitVec.xor_comm y, BitVec.xor_assoc, ← BitVec.xor_assoc (xorFold _), BitVec.xor_self,
    BitVec.zero_xor]

/-! ### The compare -/

/-- R64: the received value is there when both characters are hex, and is spelled by them. -/
theorem receivedChecksum_eq_some_iff {hi lo : Byte} {n : Nat} :
    receivedChecksum hi lo = some n ↔ ∃ h l, hexval hi = some h ∧ hexval lo = some l ∧ 16 * h + l = n := by
  cases hhi : hexval hi <;> cases hlo : hexval lo <;> simp [receivedChecksum, hhi, hlo]

/-- R63, R65: a hex character is a digit below 16, and its upper-case form is the digit's character. -/
theorem upperByte_of_hexval : ∀ c : Byte, ∀ d ∈ hexval c, d < 16 ∧ upperByte c = hexchar d := by
  decide +kernel

/-- R63: the value of a character does not depend on its case. -/
theorem hexval_upperByte : ∀ c : Byte, hexval (upperByte c) = hexval c := by
  decide +kernel

/-- R65, R134: a character has a digit's value exactly when its upper-case form is the digit's character. -/
theorem hexval_eq_some_iff {c : Byte} {d : Nat} (hd : d < 16) : hexval c = some d ↔ upperByte c = hexchar d := by
  constructor
  · intro h
    exact (upperByte_of_hexval c d h).2
  · intro h
    rw [← hexval_upperByte, h, (hexchar_spells d hd).1]

/-- R64, R65: two characters spell a value exactly when they are its two digits. -/
theorem receivedChecksum_eq_some_iff_digits {hi lo : Byte} {n : Nat} :
    receivedChecksum hi lo = some n ↔ hexval hi = some (n / 16) ∧ hexval lo = some (n % 16) := by
  rw [receivedChecksum_eq_some_iff]
  constructor
  · rintro ⟨h, l, hhi, hlo, rfl⟩
    have hl : l < 16 := (upperByte_of_hexval lo l hlo).1
    have hhigh : (16 * h + l) / 16 = h := by omega
    have hlow : (16 * h + l) % 16 = l := by omega
    rw [hhigh, hlow]
    exact ⟨hhi, hlo⟩
  · rintro ⟨hhi, hlo⟩
    exact ⟨_, _, hhi, hlo, Nat.div_add_mod n 16⟩

theorem csumMatch_iff {computed hi lo : Byte} :
    csumMatch computed hi lo = true ↔ receivedChecksum hi lo = some computed.toNat :=
  decide_eq_true_iff

/-! ### The sentence that `wrap` makes -/

/-- R62, R135: `wrap` makes a frame of the wire format, with the two characters of `hex2`. -/
theorem wrap_eq_wireFrame (p : List Byte) :
    wrap p = wireFrame p (hex2 (checksum p 0 p.length)).1 (hex2 (checksum p 0 p.length)).2 := by
  simp [wrap, wireFrame]

theorem length_wrap (p : List Byte) : (wrap p).length = p.length + 6 := by
  rw [wrap_eq_wireFrame, length_wireFrame]

/-- R62: what `wrap` puts after the payload and before the `<LF>`, by the checksum. -/
def trailer (v : Byte) : List Byte := [asciiStar, (hex2 v).1, (hex2 v).2, asciiCr]

/-- R110, R135: `wrap` makes a sentence, in which the trailer is part of the payload. -/
theorem wrap_eq_sentence (p : List Byte) : wrap p = sentence (p ++ trailer (checksum p 0 p.length)) := by
  simp [wrap, sentence, trailer]

/-- R61, R65: the trailer is `DATA` to the framer. -/
theorem classOf_trailer (v : Byte) : ∀ b ∈ trailer v, classOf b = .data := by
  obtain ⟨-, hhi, hlo, -⟩ := spelledChecksumIsReadBack v
  simp only [trailer, List.forall_mem_cons, classOf_of_hexval hhi, classOf_of_hexval hlo]
  decide

/-- R64, R134: the two characters of `hex2` match the value they spell. -/
theorem csumMatch_hex2 (v : Byte) : csumMatch v (hex2 v).1 (hex2 v).2 = true :=
  csumMatch_iff.mpr (spelledChecksumIsReadBack v).1

/-- R157, R158: the validator's verdict of a wrapped payload. -/
theorem validate_wrap (p : List Byte) :
    validate (wrap p) =
      { status := .ok, reason := 0, vCalc := checksum p 0 p.length, rxHi := (hex2 (checksum p 0 p.length)).1,
        rxLo := (hex2 (checksum p 0 p.length)).2, payLen := p.length } := by
  rw [wrap_eq_wireFrame, validate_wireFrame, csumMatch_hex2, if_pos rfl]

/-! ### The statements of 41_checksum.md -/

/-- Settles O26: the framer emits the wrapped payload once, as a sentence, and the validator accepts it as a frame. -/
theorem wrappedPayloadIsAccepted : Obligations.WrappedPayloadIsAccepted := by
  intro s p h hp hroom
  have hbytes : ∀ b ∈ p ++ trailer (checksum p 0 p.length), b ≠ asciiDollar ∧ b ≠ asciiLf :=
    List.forall_mem_append.mpr ⟨hp, fun b hb => classOf_data.mp (classOf_trailer _ b hb)⟩
  have hlen : (p ++ trailer (checksum p 0 p.length)).length = p.length + 4 := List.length_append
  obtain ⟨hrun, -⟩ := wholeSentenceGivesOneEmission s _ h hbytes (by rwa [hlen])
  rw [hlen, ← sentence, ← wrap_eq_sentence] at hrun
  refine ⟨emissionOf (wrap p), hrun, length_wrap p, rfl, ?_⟩
  simp only [emissionOf, validate_wrap, and_self]

/-- Settles O33: the range is what is taken after `start`, and its first byte is folded first. -/
theorem checksumOfARange : Obligations.ChecksumOfARange := by
  intro bs start length
  simp only [checksum_eq_take]
  refine ⟨by simp, fun hstart => ?_, fun hlength => ?_, fun hstart => ?_⟩
  · simp [List.drop_eq_nil_of_le hstart]
  · rw [← List.length_drop] at hlength ⊢
    rw [List.take_of_length_le hlength, List.take_length]
  · rw [List.drop_eq_getElem_cons hstart, List.take_succ_cons, xorFold_cons]

/-- Settles O34: the fold of the parts, and the fold of a permutation. -/
theorem checksumOfAConcatenation : Obligations.ChecksumOfAConcatenation := by
  constructor
  · intro p q
    simp only [checksum_whole, xorFold_append]
  · intro p q hperm
    rw [checksum_whole, checksum_whole, xorFold_perm hperm]

/-- Settles O35: equal checksums would make `x ^^^ y` zero. -/
theorem checksumSeesEverySingleByteChange : Obligations.ChecksumSeesEverySingleByteChange := by
  intro p q x y
  simp only [checksum_whole]
  refine ⟨xorFold_replace p q x y, fun hne heq => hne ?_⟩
  rw [← BitVec.xor_eq_zero_iff, ← xorFold_replace p q x y, heq, BitVec.xor_self]

/-- Settles O36: the received value by its two digits, and each digit by its character's upper-case form. -/
theorem compareIsCaseInsensitive : Obligations.CompareIsCaseInsensitive := by
  intro computed hi lo
  rw [csumMatch_iff]
  refine ⟨receivedChecksum_eq_some_iff, receivedChecksum_eq_some_iff_digits.trans ?_⟩
  rw [hexval_eq_some_iff (by omega), hexval_eq_some_iff (by omega), hex2]

end Sys2Proof.Machine

/-! SUPPORT. The statements of 42_validator.md: which check each reason bit is, what a frame with a reason bit is given,
and the verdict of a frame of the wire format. -/

namespace Sys2Proof.Machine

/-! ### The checks -/

/-- R151: check 1 by its bound. -/
theorem tooShort_eq (f : List Byte) : tooShort f = decide (f.length < 5) := rfl

/-- R152: check 2 by its byte. -/
theorem noStart_eq (f : List Byte) : noStart f = decide (f[0]? ≠ some 0x24#8) := rfl

/-- R150, decision D11: an index outside the frame holds no byte, so a check at it fails. -/
theorem fromEnd_ne_some_iff (f : List Byte) (k : Nat) (b : Byte) :
    fromEnd f k ≠ some b ↔ f.length < k ∨ f[f.length - k]? ≠ some b := by
  rw [fromEnd]
  split
  next h => simp [Nat.not_lt.mpr h]
  next h => simp [Nat.lt_of_not_le h]

/-- R153: check 3; a frame too short for its `<LF>` is too short for its `<CR>`. -/
theorem noTerm_eq_true_iff (f : List Byte) :
    noTerm f = true ↔ f.length < 2 ∨ f[f.length - 2]? ≠ some 0x0D#8 ∨ f[f.length - 1]? ≠ some 0x0A#8 := by
  have hshort : f.length < 1 → f.length < 2 := Nat.lt_succ_of_lt
  simp only [noTerm, Bool.or_eq_true, decide_eq_true_eq, fromEnd_ne_some_iff, asciiCr, asciiLf]
  tauto

/-- R154: check 4. -/
theorem noStar_eq_true_iff (f : List Byte) :
    noStar f = true ↔ f.length < 5 ∨ f[f.length - 5]? ≠ some 0x2A#8 :=
  decide_eq_true_iff.trans (fromEnd_ne_some_iff ..)

/-! ### The reason bits -/

theorem getLsbD_bits : ∀ a b c d : Bool,
    (bit a ++ bit b ++ bit c ++ bit d).getLsbD 0 = d ∧ (bit a ++ bit b ++ bit c ++ bit d).getLsbD 1 = c ∧
      (bit a ++ bit b ++ bit c ++ bit d).getLsbD 2 = b ∧ (bit a ++ bit b ++ bit c ++ bit d).getLsbD 3 = a := by
  decide

/-- R71, R155: the place of each check in the reason. -/
theorem validate_reason_getLsbD (f : List Byte) :
    (validate f).reason.getLsbD 0 = tooShort f ∧ (validate f).reason.getLsbD 1 = noStart f ∧
      (validate f).reason.getLsbD 2 = noTerm f ∧ (validate f).reason.getLsbD 3 = noStar f := by
  rw [validate_reason]
  exact getLsbD_bits ..

/-! ### The verdict by the reason -/

/-- R155: what a frame that failed a check is given. -/
theorem validate_of_failed {f : List Byte} (h : (validate f).reason ≠ 0) :
    validate f = droppedVerdict (validate f).reason := by
  rw [validate_reason] at h ⊢
  exact if_neg h

/-- R158: a frame that passed the checks is judged by its checksum alone. -/
theorem status_of_passed {f : List Byte} (h : (validate f).reason = 0) : (validate f).status ≠ .dropped := by
  rw [validate_reason, reasonMask_eq_zero_iff_wireFrame] at h
  obtain ⟨p, hi, lo, rfl⟩ := h
  rw [validate_wireFrame]
  cases hmatch : csumMatch (checksum p 0 p.length) hi lo <;> simp

/-- R159: a frame is dropped exactly when it failed a check. -/
theorem status_dropped_iff (f : List Byte) : (validate f).status = .dropped ↔ (validate f).reason ≠ 0 := by
  constructor
  · exact fun hdropped hpass => status_of_passed hpass hdropped
  · intro hfailed
    rw [validate_of_failed hfailed, droppedVerdict]

/-- R156: a frame of fewer than 6 bytes fails a check. -/
theorem validate_reason_ne_zero_of_length {f : List Byte} (h : f.length < 6) : (validate f).reason ≠ 0 := by
  rw [validate_reason]
  exact fun hpass => absurd (six_le_length_of_reasonMask hpass) (Nat.not_le.mpr h)

/-! ### The statements of 42_validator.md -/

/-- Settles O37: each bit is the check at its place, and each check is what it reads of the frame. -/
theorem reasonBitsAreTheFourChecks : Obligations.ReasonBitsAreTheFourChecks := by
  intro f
  obtain ⟨hshort, hstart, hterm, hstar⟩ := validate_reason_getLsbD f
  rw [hshort, hstart, hterm, hstar]
  exact ⟨tooShort_eq f, noStart_eq f, noTerm_eq_true_iff f, noStar_eq_true_iff f⟩

/-- Settles O38: a failed check gives the dropped verdict, a passed frame is compared, and a 5-byte frame cannot pass. -/
theorem anyFailedCheckDropsTheFrame : Obligations.AnyFailedCheckDropsTheFrame := by
  intro f
  refine ⟨status_dropped_iff f, fun hfailed => ?_, fun hfive => ⟨?_, ?_⟩⟩
  · rw [validate_of_failed hfailed]
    exact ⟨rfl, rfl, rfl, rfl⟩
  · exact validate_reason_ne_zero_of_length (by omega)
  · rw [(validate_reason_getLsbD f).1, tooShort_eq, hfive]
    rfl

/-- Settles O40: the frame is `wireFrame` of its payload and its two received bytes. -/
theorem verdictOfAWireFormatFrame : Obligations.VerdictOfAWireFormatFrame := validate_wireFrame

end Sys2Proof.Machine

/-! SUPPORT. The statements of 43_angle.md: the components of an angle and back, the hemisphere letters, the range check,
and what every operation of U4 leaves alone. -/

namespace Sys2Proof.Machine

/-! ### Magnitudes and their bounds -/

theorem limit_le (frac : Nat) (k : Kind) : limit frac k ≤ 180 * 2 ^ frac := by
  cases k
  case lat => exact Nat.mul_le_mul_right (2 ^ frac) (by decide : 90 ≤ 180)
  case lon => exact le_rfl

/-- R181: a value in range has at most 180 degrees, whatever its kind. -/
theorem natAbs_le_of_inRange {frac : Nat} {k : Kind} {x : Int} (h : inRange frac k x = true) :
    x.natAbs ≤ 180 * 2 ^ frac := by
  obtain ⟨hlow, hhigh⟩ := inRange_iff.mp h
  have hlimit := limit_le frac k
  omega

/-- R182: the sign bit and the magnitude of a value are the value. -/
theorem signed_natAbs (x : Int) : signed (decide (x < 0)) x.natAbs = x := by
  by_cases h : x < 0
  · simp [signed, h, abs_of_neg]
  · simp [signed, h, Int.not_lt.mp h]

theorem signed_eq_mul (neg : Bool) (mag : Nat) : signed neg mag = (if neg = true then -1 else 1) * (mag : Int) := by
  cases neg <;> simp [signed]

/-- R181: both limits are in range, and one unit beyond each is not. -/
theorem inRange_at_limits (frac : Nat) (k : Kind) :
    inRange frac k (limit frac k) = true ∧ inRange frac k (-(limit frac k)) = true ∧
      inRange frac k (limit frac k + 1) = false ∧ inRange frac k (-(limit frac k) - 1) = false := by
  simp only [← Bool.not_eq_true, inRange_iff]
  omega

/-! ### Whole parts and fractions -/

/-- R184: 180 whole degrees fit the port. -/
theorem toNat_wholeDegrees {frac mag : Nat} (h : mag ≤ 180 * 2 ^ frac) :
    (wholeDegrees frac mag).toNat = mag / 2 ^ frac ∧ (wholeDegrees frac mag).toNat ≤ 180 := by
  have hle : mag / 2 ^ frac ≤ 180 := Nat.div_le_of_le_mul (by rwa [Nat.mul_comm])
  have heq : (wholeDegrees frac mag).toNat = mag / 2 ^ frac := Nat.mod_eq_of_lt (by rw [one]; omega)
  exact ⟨heq, heq ▸ hle⟩

/-- R185: the whole minutes of a port's bits fit theirs. -/
theorem toNat_wholeMinutes {frac dm : Nat} (h : dm < 2 ^ minWidth frac) :
    (wholeMinutes frac dm).toNat = dm / 2 ^ frac := by
  rw [minWidth, Nat.pow_add] at h
  exact Nat.mod_eq_of_lt (Nat.div_lt_of_lt_mul (by rwa [Nat.mul_comm]))

theorem minutesOf_lt (frac mag : Nat) : minutesOf frac mag < 60 * 2 ^ frac := by
  have hfraction : mag % one frac < 2 ^ frac := Nat.mod_lt mag (Nat.two_pow_pos frac)
  rw [minutesOf]
  omega

theorem sixty_mul_lt_minWidth (frac : Nat) : 60 * 2 ^ frac < 2 ^ minWidth frac := by
  rw [minWidth, Nat.pow_add]
  exact Nat.mul_lt_mul_of_pos_right (by decide) (Nat.two_pow_pos frac)

/-- R184: the minutes fit their port. -/
theorem minutesOf_fits (frac mag : Nat) : minutesOf frac mag < 2 ^ minWidth frac :=
  (minutesOf_lt frac mag).trans (sixty_mul_lt_minWidth frac)

/-- R185: seconds are to minutes what minutes are to degrees. -/
theorem secondsOf_eq_minutesOf (frac dm : Nat) : secondsOf frac dm = minutesOf frac dm := rfl

/-- R189: a fraction times 60 is divided by 60 exactly. -/
theorem minutesOf_div_sixty (frac mag : Nat) : minutesOf frac mag / 60 = mag % 2 ^ frac :=
  Nat.mul_div_cancel _ (by decide)

/-! ### Operands -/

theorem dmOperand_eq (frac : Nat) (p : AngleIn) : dmOperand frac p = p.dm % 2 ^ (7 + frac) :=
  BitVec.toNat_ofNat ..

theorem dmOperand_lt (frac : Nat) (p : AngleIn) : dmOperand frac p < 2 ^ minWidth frac := BitVec.isLt _

theorem dmOperand_of_lt {frac : Nat} {p : AngleIn} (h : p.dm < 2 ^ minWidth frac) : dmOperand frac p = p.dm :=
  Nat.mod_eq_of_lt h

theorem dsOperand_eq (frac : Nat) (p : AngleIn) : dsOperand frac p = p.ds % 2 ^ (7 + frac) :=
  BitVec.toNat_ofNat ..

theorem dsOperand_of_lt {frac : Nat} {p : AngleIn} (h : p.ds < 2 ^ minWidth frac) : dsOperand frac p = p.ds :=
  Nat.mod_eq_of_lt h

/-- R191: the value of the port's bits has those bits. -/
theorem truncDeg_degOperand (frac : Nat) (p : AngleIn) :
    truncDeg frac (degOperand frac p) = p.deg % 2 ^ (9 + frac) := by
  rw [truncDeg, degOperand, BitVec.ofInt_toInt]
  exact BitVec.toNat_ofNat ..

theorem truncDeg_lt (frac : Nat) (x : Int) : truncDeg frac x < 2 ^ degWidth frac := BitVec.isLt _

/-- R187: 180 degrees and a sign fit the port, so truncation keeps a value in range. -/
theorem toInt_truncDeg {frac : Nat} {k : Kind} {x : Int} (h : inRange frac k x = true) :
    (BitVec.ofNat (9 + frac) (truncDeg frac x)).toInt = x := by
  have hmag := natAbs_le_of_inRange h
  have hpos := Nat.two_pow_pos frac
  have hwidth : (2 : Int) ^ (9 + frac - 1) = (256 * 2 ^ frac : Nat) := by
    rw [Nat.sub_add_comm (by decide), pow_add]
    simp
  have hbits : BitVec.ofNat (9 + frac) (truncDeg frac x) = BitVec.ofInt (9 + frac) x := by
    rw [truncDeg, BitVec.ofNat_toNat]
    exact BitVec.setWidth_eq _
  rw [hbits]
  exact BitVec.toInt_ofInt_eq_self (by omega) (by omega) (by omega)

/-! ### Components and back -/

/-- R189: the whole minutes and the seconds of decimal minutes are those minutes. -/
theorem dmOfDms_components {frac dm : Nat} (h : dm < 2 ^ minWidth frac) :
    dmOfDms frac (wholeMinutes frac dm).toNat (secondsOf frac dm) = dm := by
  rw [dmOfDms, toNat_wholeMinutes h, secondsOf_eq_minutesOf, minutesOf_div_sixty]
  exact Nat.div_add_mod' ..

/-- R189: the sign, the whole degrees and the minutes of a value in range are that value. -/
theorem degOfDmm_components {frac : Nat} {k : Kind} {x : Int} (h : inRange frac k x = true) :
    degOfDmm frac (decide (x < 0)) (wholeDegrees frac x.natAbs).toNat (minutesOf frac x.natAbs) = x := by
  have hmag : x.natAbs / 2 ^ frac * one frac + x.natAbs % 2 ^ frac = x.natAbs := Nat.div_add_mod' ..
  rw [degOfDmm, (toNat_wholeDegrees (natAbs_le_of_inRange h)).1, minutesOf_div_sixty, hmag, signed_natAbs]

/-- R188: the two nested floor divisions are one. -/
theorem dmOfDms_div_sixty (frac wm ds : Nat) :
    dmOfDms frac wm ds / 60 = (wm * 60 * 2 ^ frac + ds) / 3600 := by
  have hminutes : dmOfDms frac wm ds = (wm * 60 * 2 ^ frac + ds) / 60 := by
    rw [dmOfDms, one, Nat.mul_right_comm, Nat.mul_comm _ 60, Nat.mul_add_div (by decide)]
  rw [hminutes, Nat.div_div_eq_div_mul]

/-- R189: the minutes that come back from a degree value lost their remainder by 60. -/
theorem minutesOf_degrees {frac dm : Nat} (wd : Nat) (h : dm < 60 * 2 ^ frac) :
    minutesOf frac (wd * 2 ^ frac + dm / 60) + dm % 60 = dm := by
  have hfraction : (wd * 2 ^ frac + dm / 60) % 2 ^ frac = dm / 60 := by
    rw [Nat.mul_add_mod_self_right]
    exact Nat.mod_eq_of_lt (Nat.div_lt_of_lt_mul h)
  rw [minutesOf, one, hfraction]
  exact Nat.div_add_mod' ..

/-! ### The operations on values in range -/

/-- R184: the outputs of `DEG2DMM` for a value in range. -/
def dmmOutputs (frac : Nat) (x : Int) : AngleOut :=
  { AngleOut.zero with neg := decide (x < 0), wd := wholeDegrees frac x.natAbs, dm := minutesOf frac x.natAbs }

/-- R186: the outputs of `DEG2DMS` for a value in range. -/
def dmsOutputs (frac : Nat) (x : Int) : AngleOut :=
  { AngleOut.zero with
    neg := decide (x < 0), wd := wholeDegrees frac x.natAbs,
    wm := wholeMinutes frac (minutesOf frac x.natAbs), ds := secondsOf frac (minutesOf frac x.natAbs) }

/-- R187, R191: the outputs of an operation that delivers a degree value. -/
def degOutput (frac : Nat) (x : Int) : AngleOut := { AngleOut.zero with deg := truncDeg frac x }

/-- R191: of an operand, they are the port's bits. -/
theorem degOutput_degOperand (frac : Nat) (p : AngleIn) :
    degOutput frac (degOperand frac p) = { AngleOut.zero with deg := p.deg % 2 ^ (9 + frac) } := by
  rw [degOutput, truncDeg_degOperand]

/-- R189: the operand ports with the components that `DEG2DMM` gave. -/
def dmmPorts (o : AngleOut) (p : AngleIn) : AngleIn := { p with neg := o.neg, wd := o.wd, dm := o.dm }

/-- R189: the operand ports with the components that `DEG2DMS` gave. -/
def dmsPorts (o : AngleOut) (p : AngleIn) : AngleIn := { p with neg := o.neg, wd := o.wd, wm := o.wm, ds := o.ds }

/-- R189: the components of `DEG2DMM` on the operand ports are the value they came from. -/
theorem degOfDmm_dmmPorts {frac : Nat} {k : Kind} {x : Int} (h : inRange frac k x = true) (p : AngleIn) :
    degOfDmm frac (dmmPorts (dmmOutputs frac x) p).neg (dmmPorts (dmmOutputs frac x) p).wd.toNat
      (dmOperand frac (dmmPorts (dmmOutputs frac x) p)) = x := by
  rw [dmOperand_of_lt (minutesOf_fits ..)]
  exact degOfDmm_components h

/-- R189: the components of `DEG2DMS` on the operand ports are the value they came from. -/
theorem degOfDmm_dmsPorts {frac : Nat} {k : Kind} {x : Int} (h : inRange frac k x = true) (p : AngleIn) :
    degOfDmm frac (dmsPorts (dmsOutputs frac x) p).neg (dmsPorts (dmsOutputs frac x) p).wd.toNat
      (dmOfDms frac (dmsPorts (dmsOutputs frac x) p).wm.toNat (dsOperand frac (dmsPorts (dmsOutputs frac x) p))) =
        x := by
  have hminutes : dmOfDms frac (wholeMinutes frac (minutesOf frac x.natAbs)).toNat
      (secondsOf frac (minutesOf frac x.natAbs)) = minutesOf frac x.natAbs :=
    dmOfDms_components (minutesOf_fits ..)
  rw [dsOperand_of_lt (minutesOf_fits ..)]
  exact (congrArg _ hminutes).trans (degOfDmm_components h)

/-- R180: in range the outputs are delivered, and nothing but U4's outputs changes. -/
theorem driveAngle_whenInRange {s : State} {frac : Nat} {k : Kind} {x : Int} (o : AngleOut)
    (ha : s.config.hasAngle = true) (hx : inRange frac k x = true) :
    driveAngle (whenInRange frac k x o) s = .next (withAngOut s o) := by
  rw [whenInRange_in o hx, driveAngle_present o ha]

section
variable {s : State} (ha : s.config.hasAngle = true)
include ha

theorem exec_dmm2dms :
    exec .dmm2dms s =
      .next (withAngOut s (dmm2dmsResult s.config.fracBits (dmOperand s.config.fracBits s.angIn))) :=
  driveAngle_present _ ha

theorem exec_dmm2deg_of_inRange {x : Int}
    (hdeg : degOfDmm s.config.fracBits s.angIn.neg s.angIn.wd.toNat (dmOperand s.config.fracBits s.angIn) = x)
    (hx : inRange s.config.fracBits s.angIn.kind x = true) :
    exec .dmm2deg s = .next (withAngOut s (degOutput s.config.fracBits x)) := by
  subst hdeg
  exact driveAngle_whenInRange _ ha hx

theorem exec_dms2deg_of_inRange {x : Int}
    (hdeg : degOfDmm s.config.fracBits s.angIn.neg s.angIn.wd.toNat
      (dmOfDms s.config.fracBits s.angIn.wm.toNat (dsOperand s.config.fracBits s.angIn)) = x)
    (hx : inRange s.config.fracBits s.angIn.kind x = true) :
    exec .dms2deg s = .next (withAngOut s (degOutput s.config.fracBits x)) := by
  subst hdeg
  exact driveAngle_whenInRange _ ha hx

variable (hx : inRange s.config.fracBits s.angIn.kind (degOperand s.config.fracBits s.angIn) = true)
include hx

theorem exec_deg2dmm_of_inRange :
    exec .deg2dmm s = .next (withAngOut s (dmmOutputs s.config.fracBits (degOperand s.config.fracBits s.angIn))) :=
  driveAngle_whenInRange _ ha hx

theorem exec_deg2dms_of_inRange :
    exec .deg2dms s = .next (withAngOut s (dmsOutputs s.config.fracBits (degOperand s.config.fracBits s.angIn))) :=
  driveAngle_whenInRange _ ha hx

theorem exec_rangechk_of_inRange :
    exec .rangechk s = .next (withAngOut s (degOutput s.config.fracBits (degOperand s.config.fracBits s.angIn))) :=
  driveAngle_whenInRange _ ha hx

end

/-! ### The hemisphere letters -/

/-- R190: a hemisphere row is `HEMI2SIGN` of its letter. -/
theorem exec_hemi {i : Instr} (h : (encode i).format = .hemi) (s : State) :
    exec i s = driveAngle (hemiResult (encode i).bits) s := by
  cases i <;> cases h <;> rfl

theorem hemiSign_positive : ∀ c ∈ [0x4E#8, 0x6E#8, 0x45#8, 0x65#8], hemiSign c = some false := by decide

theorem hemiSign_negative : ∀ c ∈ [0x53#8, 0x73#8, 0x57#8, 0x77#8], hemiSign c = some true := by decide

theorem hemiSign_other {c : Byte} (h : c ∉ [0x4E#8, 0x6E#8, 0x45#8, 0x65#8, 0x53#8, 0x73#8, 0x57#8, 0x77#8]) :
    hemiSign c = none := by
  simp only [List.mem_cons, List.not_mem_nil, or_false] at h
  rw [hemiSign, if_neg (by tauto), if_neg (by tauto)]

theorem hemiResult_of_sign {c : Byte} {n : Bool} (h : hemiSign c = some n) :
    hemiResult c = { AngleOut.zero with neg := n } := by
  rw [hemiResult, h]

theorem hemiResult_of_no_sign {c : Byte} (h : hemiSign c = none) : hemiResult c = raiseAngle .formatError := by
  rw [hemiResult, h]

/-- R190: a letter's operation drives its sign. -/
theorem exec_hemi_of_sign {i : Instr} {s : State} {n : Bool} (ha : s.config.hasAngle = true)
    (h : (encode i).format = .hemi ∧ hemiSign (encode i).bits = some n) :
    exec i s = .next (withAngOut s { AngleOut.zero with neg := n }) := by
  rw [exec_hemi h.1, hemiResult_of_sign h.2, driveAngle_present _ ha]

/-! ### What every operation of U4 drives -/

/-- R30, R180: outputs that fit their ports, all of them 0 on an error. -/
structure WellDriven (frac : Nat) (o : AngleOut) : Prop where
  fits : FitsPorts frac o
  clear : o.errRange = true ∨ o.errFormat = true →
    o.deg = 0 ∧ o.neg = false ∧ o.wd = 0 ∧ o.dm = 0 ∧ o.wm = 0 ∧ o.ds = 0

/-- Outputs without an error need only fit. -/
theorem WellDriven.of_no_error {frac : Nat} {o : AngleOut} (hrange : o.errRange = false)
    (hformat : o.errFormat = false) (h : FitsPorts frac o) : WellDriven frac o :=
  ⟨h, by simp [hrange, hformat]⟩

theorem fitsPorts_zero (frac : Nat) : FitsPorts frac AngleOut.zero :=
  ⟨Nat.two_pow_pos _, Nat.two_pow_pos _, Nat.two_pow_pos _⟩

theorem wellDriven_raiseAngle (frac : Nat) (e : AngleError) : WellDriven frac (raiseAngle e) := by
  cases e <;> exact ⟨fitsPorts_zero frac, fun _ => ⟨rfl, rfl, rfl, rfl, rfl, rfl⟩⟩

theorem wellDriven_whenInRange {frac : Nat} {o : AngleOut} (k : Kind) (x : Int) (h : WellDriven frac o) :
    WellDriven frac (whenInRange frac k x o) := by
  cases hx : inRange frac k x
  · rw [whenInRange_out o hx]
    exact wellDriven_raiseAngle frac _
  · rwa [whenInRange_in o hx]

theorem wellDriven_dmmOutputs (frac : Nat) (x : Int) : WellDriven frac (dmmOutputs frac x) :=
  .of_no_error rfl rfl ⟨Nat.two_pow_pos _, minutesOf_fits .., Nat.two_pow_pos _⟩

theorem wellDriven_dmsOutputs (frac : Nat) (x : Int) : WellDriven frac (dmsOutputs frac x) :=
  .of_no_error rfl rfl ⟨Nat.two_pow_pos _, Nat.two_pow_pos _, minutesOf_fits ..⟩

theorem wellDriven_dmm2dmsResult (frac dm : Nat) : WellDriven frac (dmm2dmsResult frac dm) :=
  .of_no_error rfl rfl ⟨Nat.two_pow_pos _, Nat.two_pow_pos _, minutesOf_fits ..⟩

theorem wellDriven_degOutput (frac : Nat) (x : Int) : WellDriven frac (degOutput frac x) :=
  .of_no_error rfl rfl ⟨truncDeg_lt .., Nat.two_pow_pos _, Nat.two_pow_pos _⟩

theorem wellDriven_hemiResult (frac : Nat) (c : Byte) : WellDriven frac (hemiResult c) := by
  cases h : hemiSign c with
  | some n => exact hemiResult_of_sign h ▸ .of_no_error rfl rfl (fitsPorts_zero frac)
  | none => exact hemiResult_of_no_sign h ▸ wellDriven_raiseAngle frac _

/-- R66: every code of `ang_op` but the reserved one drives outputs that fit, and no value with an error. -/
theorem exec_aop_wellDriven {i : Instr} (h : (encode i).format = .aop) (hr : i ≠ .aopRsvd) (s : State) :
    ∃ o, exec i s = driveAngle o s ∧ WellDriven s.config.fracBits o := by
  cases i <;> cases h
  case deg2dmm => exact ⟨_, rfl, wellDriven_whenInRange _ _ (wellDriven_dmmOutputs ..)⟩
  case dmm2dms => exact ⟨_, rfl, wellDriven_dmm2dmsResult ..⟩
  case deg2dms => exact ⟨_, rfl, wellDriven_whenInRange _ _ (wellDriven_dmsOutputs ..)⟩
  case dmm2deg | dms2deg | rangechk => exact ⟨_, rfl, wellDriven_whenInRange _ _ (wellDriven_degOutput ..)⟩
  case hemi2sign => exact ⟨_, rfl, wellDriven_hemiResult ..⟩
  case aopRsvd => exact absurd rfl hr

/-- R180: so does every operation of U4 but the reserved one. -/
theorem exec_asksAngle_wellDriven {i : Instr} (h : asksAngle i = true) (hr : i ≠ .aopRsvd) (s : State) :
    ∃ o, exec i s = driveAngle o s ∧ WellDriven s.config.fracBits o := by
  rcases asksAngle_iff.mp h with hhemi | haop
  · exact ⟨_, exec_hemi hhemi s, wellDriven_hemiResult ..⟩
  · exact exec_aop_wellDriven haop hr s

/-! ### The statements of 43_angle.md -/

/-- Settles O41: the outputs are `dmmOutputs`, whose parts have the bounds of a magnitude of at most 180 degrees. -/
theorem degreesToMinutes : Obligations.DegreesToMinutes := by
  intro s ha hx
  obtain ⟨hwd, hle⟩ := toNat_wholeDegrees (natAbs_le_of_inRange hx)
  exact ⟨_, exec_deg2dmm_of_inRange ha hx, rfl, hwd, hle, rfl, minutesOf_lt .., minutesOf_fits ..,
    rfl, rfl, rfl, rfl, rfl⟩

/-- Settles O42: the port's low `F` bits are those of its `7+F` bits. -/
theorem minutesToSeconds : Obligations.MinutesToSeconds := by
  intro s ha
  have hwhole := toNat_wholeMinutes (dmOperand_lt s.config.fracBits s.angIn)
  have hseconds : secondsOf s.config.fracBits (dmOperand s.config.fracBits s.angIn) =
      s.angIn.dm % 2 ^ s.config.fracBits * 60 := by
    rw [secondsOf, one, dmOperand_eq, Nat.mod_mod_of_dvd _ (Nat.pow_dvd_pow 2 (Nat.le_add_left ..))]
  rw [dmOperand_eq] at hwhole
  exact ⟨_, exec_dmm2dms ha, hwhole, hseconds, minutesOf_fits .., rfl, rfl, rfl, rfl, rfl, rfl⟩

/-- Settles O43: the minutes of `DEG2DMM` fit the port, so `DMM2DMS` reads them whole. -/
theorem degreesToSeconds : Obligations.DegreesToSeconds := by
  intro s ha hx
  have hdms := exec_dmm2dms (s := withAngIn { s.angIn with
    dm := minutesOf s.config.fracBits (degOperand s.config.fracBits s.angIn).natAbs } s) ha
  rw [withAngIn_config, dmOperand_of_lt (minutesOf_fits ..)] at hdms
  exact ⟨_, _, _, exec_deg2dms_of_inRange ha hx, exec_deg2dmm_of_inRange ha hx, hdms,
    rfl, rfl, rfl, rfl, rfl, rfl, rfl, rfl⟩

/-- Settles O44: the value is `degOfDmm` of the operands, and one in range fits the port. -/
theorem minutesToDegrees : Obligations.MinutesToDegrees := by
  intro s x ha hvalue hx
  have hdeg : degOfDmm s.config.fracBits s.angIn.neg s.angIn.wd.toNat (dmOperand s.config.fracBits s.angIn) = x := by
    rw [degOfDmm, signed_eq_mul, dmOperand_eq, one, hvalue]
  exact ⟨_, exec_dmm2deg_of_inRange ha hdeg hx, toInt_truncDeg hx, truncDeg_lt .., rfl, rfl, rfl, rfl, rfl, rfl, rfl⟩

/-- Settles O45: as O44, with the nested divisions as one. -/
theorem secondsToDegrees : Obligations.SecondsToDegrees := by
  intro s x ha hvalue hx
  have hdeg : degOfDmm s.config.fracBits s.angIn.neg s.angIn.wd.toNat
      (dmOfDms s.config.fracBits s.angIn.wm.toNat (dsOperand s.config.fracBits s.angIn)) = x := by
    rw [degOfDmm, signed_eq_mul, dmOfDms_div_sixty, dsOperand_eq, one, hvalue]
  exact ⟨_, exec_dms2deg_of_inRange ha hdeg hx, toInt_truncDeg hx, truncDeg_lt .., rfl, rfl, rfl, rfl, rfl, rfl, rfl⟩

/-- Settles O46: the sign of the letter by the three lists. -/
theorem hemisphereLetterToSign : Obligations.HemisphereLetterToSign := by
  intro s ha
  have hexec : exec .hemi2sign s = .next (withAngOut s (hemiResult s.angIn.hemi)) := driveAngle_present _ ha
  refine ⟨fun h => ?_, fun h => ?_, fun h => ?_⟩
  · rw [hexec, hemiResult_of_sign (hemiSign_positive _ h)]
    rfl
  · rw [hexec, hemiResult_of_sign (hemiSign_negative _ h)]
    rfl
  · rw [hexec, hemiResult_of_no_sign (hemiSign_other h)]
    rfl

/-- Settles O47: each letter's operation is `HEMI2SIGN` of its letter, whose sign is evaluated. -/
theorem hemisphereOperations : Obligations.HemisphereOperations := by
  intro s ha
  refine ⟨fun i hi => ?_, fun i hi => ?_, fun i t hf hletter h => ?_⟩
  · exact exec_hemi_of_sign ha ((by decide : ∀ i ∈ [Instr.hemiUpperN, .hemiLowerN, .hemiUpperE, .hemiLowerE],
      (encode i).format = .hemi ∧ hemiSign (encode i).bits = some false) i hi)
  · exact exec_hemi_of_sign ha ((by decide : ∀ i ∈ [Instr.hemiUpperS, .hemiLowerS, .hemiUpperW, .hemiLowerW],
      (encode i).format = .hemi ∧ hemiSign (encode i).bits = some true) i hi)
  · rw [exec_hemi hf, ← hletter] at h
    exact h

/-- Settles O48: truncation gives back the port's bits. -/
theorem rangeCheckDeliversTheOperand : Obligations.RangeCheckDeliversTheOperand := by
  intro s ha hx
  rw [exec_rangechk_of_inRange ha hx, degOutput_degOperand]
  rfl

/-- Settles O50: the two limits written out. -/
theorem limitsAreClosed : Obligations.LimitsAreClosed := by
  intro frac
  have hlat : ((limit frac .lat : Nat) : Int) = 90 * 2 ^ frac := by simp [limit, one]
  have hlon : ((limit frac .lon : Nat) : Int) = 180 * 2 ^ frac := by simp [limit, one]
  obtain ⟨hupLat, hlowLat, hbeyondLat, hbelowLat⟩ := hlat ▸ inRange_at_limits frac .lat
  exact ⟨hupLat, hlowLat, hbeyondLat, hbelowLat, hlon ▸ inRange_at_limits frac .lon⟩

/-- Settles O51: the components of a value in range fit their ports and are that value. -/
theorem angleRoundTripIsExact : Obligations.AngleRoundTripIsExact := by
  refine ⟨fun s ha hx => ?_, fun _ wd _ h => minutesOf_degrees wd h⟩
  rw [← degOutput_degOperand]
  constructor
  · exact ⟨_, exec_deg2dmm_of_inRange ha hx,
      exec_dmm2deg_of_inRange (s := withAngIn (dmmPorts _ s.angIn) s) ha (degOfDmm_dmmPorts hx s.angIn) hx⟩
  · exact ⟨_, exec_deg2dms_of_inRange ha hx,
      exec_dms2deg_of_inRange (s := withAngIn (dmsPorts _ s.angIn) s) ha (degOfDmm_dmsPorts hx s.angIn) hx⟩

/-- Settles O52: the outputs by `exec_asksAngle_wellDriven`, and their dependence by `exec_asksAngle`. -/
theorem angleOperationsAreFunctionsOfTheirPorts : Obligations.AngleOperationsAreFunctionsOfTheirPorts := by
  constructor
  · intro i s t hi ht
    have hr : i ≠ .aopRsvd := by rintro rfl; cases ht
    obtain ⟨o, hexec, hdriven⟩ := exec_asksAngle_wellDriven hi hr s
    exact ⟨o, (driveAngle_next (hexec.symm.trans ht)).2, hdriven.fits, hdriven.clear⟩
  · intro i s t u v hi hconfig hports ht hv
    have hr : i ≠ .aopRsvd := by rintro rfl; cases ht
    obtain ⟨o, hexec⟩ := exec_asksAngle hi hr
    rw [(driveAngle_next ((hexec s).symm.trans ht)).2, (driveAngle_next ((hexec u).symm.trans hv)).2, hconfig, hports]
    rfl

end Sys2Proof.Machine

/-! SUPPORT. The statements of 60_exceptions.md: a degree value beyond the limits, and the framer and U4 in either
order. -/

namespace Sys2Proof.Machine

/-! ### Values out of range -/

/-- R181: out of range is beyond one of the two closed limits. -/
theorem inRange_eq_false_iff {frac : Nat} {k : Kind} {x : Int} :
    inRange frac k x = false ↔ (limit frac k : Int) < x ∨ x < -(limit frac k : Int) := by
  rw [← Bool.not_eq_true, inRange_iff]
  omega

/-- R187: a magnitude beyond the limit is out of range with either sign. -/
theorem inRange_signed_of_limit_lt {frac : Nat} {k : Kind} {mag : Nat} (neg : Bool) (h : limit frac k < mag) :
    inRange frac k (signed neg mag) = false := by
  rw [inRange_eq_false_iff]
  cases neg
  case false => exact .inl (Int.ofNat_lt.mpr h)
  case true => exact .inr (Int.neg_lt_neg (Int.ofNat_lt.mpr h))

/-- R180, R255: out of range the error is driven in place of the outputs, and nothing but U4's outputs changes. -/
theorem driveAngle_whenInRange_out {s : State} {frac : Nat} {k : Kind} {x : Int} (o : AngleOut)
    (ha : s.config.hasAngle = true) (hx : inRange frac k x = false) :
    driveAngle (whenInRange frac k x o) s = .next (withAngOut s (raiseAngle .rangeViolation)) := by
  rw [whenInRange_out o hx, driveAngle_present _ ha]

/-- R184, R186, R191: the three operations on a degree operand drive their outputs when it is in range. -/
theorem exec_degree_operand (s : State) : ∀ i ∈ [Instr.deg2dmm, .deg2dms, .rangechk], ∃ o, exec i s =
    driveAngle (whenInRange s.config.fracBits s.angIn.kind (degOperand s.config.fracBits s.angIn) o) s := by
  simp only [List.forall_mem_cons]
  exact ⟨⟨_, rfl⟩, ⟨_, rfl⟩, ⟨_, rfl⟩, nofun⟩

/-! ### The framer beside U4's outputs -/

/-- R102: the guard does not read U4's outputs. -/
theorem guard_withAngOut (s : State) (o : AngleOut) :
    bufferFullGuard (withAngOut s o) = withAngOut (bufferFullGuard s) o := by
  by_cases h : s.st = .payload ∧ s.len = s.config.cap
  · rw [guard_full h, guard_full (s := withAngOut s o) h]
    rfl
  · rw [guard_notFull h, guard_notFull (s := withAngOut s o) h]

/-- R260: a byte does the same whatever U4 drives, in each of the four things it can do. -/
theorem acceptByte_withAngOut {b : Byte} {s t : State} (h : acceptByte b s = .next t) (o : AngleOut) :
    acceptByte b (withAngOut s o) = .next (withAngOut t o) := by
  have hguard : bufferFullGuard (quiet (withAngOut s o)) = withAngOut (bufferFullGuard (quiet s)) o :=
    guard_withAngOut (quiet s) o
  rcases acceptByte_cases h with ⟨hst, hb, rfl⟩ | ⟨hb, hcap, rfl⟩ | ⟨hst, hb, hroom, rfl⟩ | ⟨hst, hb, hroom, rfl⟩
  · rw [acceptByte_idle hb (by rw [hguard, withAngOut_st, hst]), hguard]
  · rw [acceptByte_sof (s := withAngOut s o) hb hcap, hguard]
    rfl
  · have hquiet := guard_of_payload hst
    rw [hquiet] at hst hroom ⊢
    exact acceptByte_eof (s := withAngOut s o) hb hst hroom
  · have hquiet := guard_of_payload hst
    rw [hquiet] at hst hroom ⊢
    exact acceptByte_data (s := withAngOut s o) hb hst hroom

/-- R260: no operation of the framer reads U4's outputs. -/
theorem exec_framerOp_withAngOut {i : Instr} {s t : State} (hi : IsFramerOp i) (h : exec i s = .next t)
    (o : AngleOut) : exec i (withAngOut s o) = .next (withAngOut t o) := by
  rcases hi with hi | rfl | rfl
  · rw [exec_offersByte hi] at h ⊢
    exact acceptByte_withAngOut h o
  · cases h
    rfl
  · cases h
    rfl

/-! ### The statements of 60_exceptions.md -/

/-- Settles O49: all five operations deliver through `whenInRange`, the last two on a signed magnitude. -/
theorem outOfRangeDeliversNoValue : Obligations.OutOfRangeDeliversNoValue := by
  intro s ha
  refine ⟨fun i hi hx => ?_, fun h => ?_, fun h => ?_⟩
  · obtain ⟨o, hexec⟩ := exec_degree_operand s i hi
    exact hexec.trans (driveAngle_whenInRange_out o ha (inRange_eq_false_iff.mpr hx))
  · rw [← dmOperand_eq] at h
    exact driveAngle_whenInRange_out _ ha (inRange_signed_of_limit_lt _ h)
  · rw [← dsOperand_eq, ← dmOfDms_div_sixty] at h
    exact driveAngle_whenInRange_out _ ha (inRange_signed_of_limit_lt _ h)

/-- Settles O57: the framer's operation keeps the build and the ports that U4's outputs depend on, and reads none of those
outputs itself. -/
theorem unitsDoNotInteract : Obligations.UnitsDoNotInteract := by
  intro i j s t u hi hj ht hu
  have hr : j ≠ .aopRsvd := by rintro rfl; cases hu
  obtain ⟨o, hexec⟩ := exec_asksAngle hj hr
  obtain ⟨ha, rfl⟩ := driveAngle_next ((hexec s).symm.trans hu)
  obtain ⟨hconfig, -, hports, -⟩ := exec_framerOp_keeps hi ht
  have hafter : exec j t = .next (withAngOut t (o s.config s.angIn)) := by
    rw [hexec, hconfig, hports, driveAngle_present _ (hconfig ▸ ha)]
  exact ⟨_, hafter, exec_framerOp_withAngOut hi ht _⟩

end Sys2Proof.Machine

/-! SUPPORT. The statements of 70_reset_and_hazards.md: the bytes a frame in progress does not reach, and the step that
resets. -/

namespace Sys2Proof.Machine

/-- R281: a frame in progress is fixed by `st`, `len` and the bytes below `len`, whatever else the buffer holds. -/
theorem frameInProgress_of_agree {s u : State} {f : List Byte} (hf : FrameInProgress s f) (hst : s.st = u.st)
    (hlen : s.len = u.len) (hagree : ∀ k < s.len, memRead s.buf k = memRead u.buf k) : FrameInProgress u f := by
  refine ⟨hst.symm.trans hf.st, hlen.symm.trans hf.len, fun k hk => ?_⟩
  rw [← hagree k (hf.len ▸ hk), hf.view k hk]

/-- R106, R108: `EOF` on a frame in progress with room for it emits the frame and the `<LF>`. -/
theorem exec_eof_emission {s : State} {f : List Byte} (hf : FrameInProgress s f) (hroom : s.len < s.config.cap) :
    ∃ t, exec .eof s = .next t ∧ t.emission = some (emissionOf (f ++ [asciiLf])) :=
  ⟨_, acceptByte_lf_of_frame hf (hf.len ▸ hroom), rfl⟩

/-- R280: a step with `rst = 1` leaves the framer as `RESET` does, whatever byte is offered and whatever is asked of
U4. -/
theorem step_with_reset {s : State} {c : ClockCycle} {rest : List ClockCycle} (hlegal : s.config.legal = true)
    (hp : s.pending = c :: rest) (hr : c.rst = true) :
    ∃ t, step s = .next t ∧ SameFramer (toIdle s) t ∧ t.emission = none ∧ t.pending = rest := by
  obtain ⟨hnext, -⟩ := beginCycle_cons hp
  have hexec : exec (framerInstr (nextCycle s)) (beginCycle s) = .next (toIdle (quiet (beginCycle s))) := by
    rw [hnext, framerInstr_of_rst hr]
    rfl
  obtain ⟨t, ht⟩ := requestPart_next (nextCycle s).angle (toIdle (quiet (beginCycle s)))
  obtain ⟨hsame, hemission, hpending⟩ := requestPart_sameFramer ht
  exact ⟨t, (step_of_exec hlegal hexec).trans ht, ⟨hsame.config, hsame.st, hsame.len, hsame.buf⟩, hemission,
    hpending.trans (by simp [hp])⟩

/-! ### The statements of 70_reset_and_hazards.md -/

/-- Settles O9: `RESET` only idles the framer and clears the emission, and a step with `rst = 1` is that and U4's part. -/
theorem resetReturnsTheFramerToIdle : Obligations.ResetReturnsTheFramerToIdle := by
  refine ⟨fun _ => rfl, ?_⟩
  intro s c rest hlegal hp hr
  obtain ⟨t, ht, hsame, hemission, hpending⟩ := step_with_reset hlegal hp hr
  exact ⟨t, ht, hsame.st.symm, hsame.len.symm, hemission, hsame.buf.symm, hpending⟩

/-- Settles O32: the frame that the first state holds is also the one the second holds, and `EOF` emits that frame. -/
theorem leftoverBytesCannotAffectTheVerdict : Obligations.LeftoverBytesCannotAffectTheVerdict := by
  intro s u hs _ hconfig hst hu hlen hroom hagree
  have hframe := frameInProgress_frameBytes hs hst
  have hframeu := frameInProgress_of_agree hframe (hst.trans hu.symm) hlen hagree
  obtain ⟨t, ht, het⟩ := exec_eof_emission hframe hroom
  obtain ⟨v, hv, hev⟩ := exec_eof_emission hframeu (hlen ▸ hconfig ▸ hroom)
  exact ⟨t, v, ht, hv, het.trans hev.symm, by simp [het]⟩

end Sys2Proof.Machine
